-- ==== Sys2Proof/Word.lean ====
section
/-! DEFINITION. The value types of the block: register words, bytes and temperatures. -/

namespace Sys2Proof

/-- A register word, a raw temperature word or a configuration word: exactly 16 bits (00_scope R7). -/
abbrev Word := BitVec 16

/-- One byte: the command word (30_encoding R81), or half of a register word on the wire (20_memory R53). -/
abbrev Byte := BitVec 8

/-- A temperature operand or result: an exact rational number of degrees (10_state R26). -/
abbrev Temp := Rat

end Sys2Proof
end

