-- ==== Sys2Proof/Syntax.lean ====
section
/-! DEFINITION. The commands of the block, the register addresses, the operand ports and the requests a host presents. -/

namespace Sys2Proof

/-- The 35 commands of 30_encoding R87, one constructor per row of the opcode table. The command word carries no operand:
operands arrive on ports (30_encoding R80, R90), so every constructor is plain. -/
inductive Instr where
  | dect | enct | c2f | f2c | pack | unpack
  | rdregTval | rdregCfg | rdregTlow | rdregThigh
  | wrregCfg | wrregTlow | wrregThigh
  | rdtempC | rdtempF
  | getthLowC | getthLowF | getthHighC | getthHighF
  | setthLow | setthHigh
  | getfAl | getfCr | getfSm | getfIm | getfPol | getfCf | getfSs
  | setfCr | setfSm | setfIm | setfPol | setfCf | setfSs
  | trigss
  deriving DecidableEq, Repr, Inhabited

/-- The four registers of the register bank (20_memory R50). -/
inductive RegAddr where
  | tval | cfg | tlow | thigh
  deriving DecidableEq, Repr, Inhabited

/-- The seven named fields of the configuration word (10_state R30). -/
inductive ConfigField where
  | al | cr | sm | im | pol | cf | ss
  deriving DecidableEq, Repr, Inhabited

/-- A bit field of a word: `wid` bits, the lowest at bit `off` (40_codec R104). -/
structure Field where
  off : Nat
  wid : Nat
  deriving DecidableEq, Repr, Inhabited

/-- The four result latches (10_state R21 to R24). -/
inductive LatchId where
  | rw | rt | rn | rb
  deriving DecidableEq, Repr, Inhabited

/-- The operand ports of 30_encoding R80. -/
inductive PortName where
  | a | t | off | wid | n | b
  deriving DecidableEq, Repr, Inhabited

/-- One request of the host: the command word and the value on every operand port (30_encoding R80, R90). -/
structure Request where
  cmd : Byte
  a   : Word
  t   : Temp
  off : BitVec 4
  wid : BitVec 5
  n   : Int
  b   : Bool
  deriving DecidableEq, Repr

end Sys2Proof
end

