-- ==== Sys2Proof/Config.lean ====
section
/-! DEFINITION. What an integration fixes (00_scope section 4) and the free values the spec leaves open: the register bank's
answers and the numerics of an implementation. The opaque constants have no body, so nothing can be proved about them. -/

namespace Sys2Proof

/-- One event of the port history: a completed read or write of a whole register (20_memory R60, R68). -/
inductive Event where
  | rd (r : RegAddr) (w : Word)
  | wr (r : RegAddr) (w : Word)
  deriving DecidableEq, Repr

/-- What the transport delivers for one register read (20_memory R54, R56): both bytes in the order they arrive, fewer than
two bytes, or a transport failure. -/
inductive ReadAnswer where
  | bytes (b0 b1 : Byte)
  | short (b0 : Option Byte)
  | failed
  deriving DecidableEq, Repr, Inhabited

/-- The register bank's answer to one port transaction, whichever kind it turns out to be: what a read delivers, and whether
a write is acknowledged (20_memory R56, R57). -/
structure PortAnswer where
  read : ReadAnswer
  ack  : Bool
  deriving DecidableEq, Repr

/-- A register image: one word for each of the four registers (20_memory R58). -/
structure Image where
  tval  : Word
  cfg   : Word
  tlow  : Word
  thigh : Word
  deriving DecidableEq, Repr

/-- Who answers the port. `oracle` is the normative register bank (00_scope R13): it gives the answers listed, oldest first,
and after them whatever it likes; since the list is data of the state, a statement about every state is a statement about
every oracle. `store` is the deterministic oracle of 20_memory R58 with its initial image. -/
inductive Bank where
  | oracle (answers : List PortAnswer)
  | store (m0 : Image)
  deriving DecidableEq, Repr

/-- The numerics the block was built with (00_scope R11): the reference instantiation, or an implementation's own functions. -/
inductive Numerics where
  | reference
  | implementation
  deriving DecidableEq, Repr

/-- The integration parameters of 00_scope R10 to R12, fixed for the block's lifetime. -/
structure Params where
  /-- The 7-bit bus address of the register bank (R10). -/
  devAddr : BitVec 7
  /-- The numerics of the Fahrenheit conversions (R11). -/
  numerics : Numerics
  /-- The value of configuration bit 9 that selects comparator mode (R12). -/
  imComparator : Bool
  /-- The value of configuration bit 10 that selects active-low polarity (R12). -/
  polActiveLow : Bool
  deriving DecidableEq, Repr

/-- The parameters an integration has unless it sets others: the defaults of 00_scope R10 and R12 (R12's from general
knowledge, PRESUMED, log 7) and numerics left open (DESIGN CHOICE, log 6). -/
def Config.defaultParams : Params :=
  { devAddr := 0x48, numerics := .implementation, imComparator := false, polActiveLow := false }

/-- C2F_NUM of an implementation (00_scope R11): a total function of its operand, otherwise free (log 6). -/
opaque Config.c2fNum (c : Temp) : Temp

/-- F2C_NUM of an implementation (00_scope R11): a total function of its operand, otherwise free (log 6). -/
opaque Config.f2cNum (f : Temp) : Temp

/-- What the register bank at address `dev` delivers for a read of `r` as the `n`-th transaction attempted, after the history
`h` (00_scope R13): free (log 10). -/
opaque Config.oracle (dev : BitVec 7) (n : Nat) (h : List Event) (r : RegAddr) : ReadAnswer

/-- Whether the transport acknowledges a write of the bytes `hi`, `lo` to `r` as the `n`-th transaction attempted
(20_memory R57): free (log 10). -/
opaque Config.portWrite (dev : BitVec 7) (n : Nat) (h : List Event) (r : RegAddr) (hi lo : Byte) : Bool

end Sys2Proof
end

