-- ==== Sys2Proof/WellFormed.lean ====
section
/-! DEFINITION. What a well-formed term of the command set is. -/

namespace Sys2Proof

/-- A bit field is well formed when it has at least one bit and lies inside bits 15:0 (40_codec R104, R110: a legal
offset and width). -/
abbrev Field.wf (f : Field) : Prop := 1 ≤ f.wid ∧ f.off + f.wid ≤ 16

/-- The words of configuration fields must not overlap (10_state R30): no bit belongs to both. -/
abbrev Field.disjoint (f g : Field) : Prop := f.off + f.wid ≤ g.off ∨ g.off + g.wid ≤ f.off

/-- A command has no operand in its word (30_encoding R90), so every term of `Instr` is well formed: one case a constructor,
so that a command that gains an operand must say when it is well formed. -/
def Instr.wf : Instr → Bool
  | .dect | .enct | .c2f | .f2c | .pack | .unpack => true
  | .rdregTval | .rdregCfg | .rdregTlow | .rdregThigh => true
  | .wrregCfg | .wrregTlow | .wrregThigh => true
  | .rdtempC | .rdtempF => true
  | .getthLowC | .getthLowF | .getthHighC | .getthHighF => true
  | .setthLow | .setthHigh => true
  | .getfAl | .getfCr | .getfSm | .getfIm | .getfPol | .getfCf | .getfSs => true
  | .setfCr | .setfSm | .setfIm | .setfPol | .setfCf | .setfSs => true
  | .trigss => true

end Sys2Proof
end

