-- ==== Sys2Proof/Decode.lean ====
section
/-! DEFINITION. The command word: the decoder, total over all 256 values, and the encoder (30_encoding). -/

namespace Sys2Proof

/-- CLASS, bits 7:4 of the command word (30_encoding R81). -/
def Byte.cls (cmd : Byte) : BitVec 4 := cmd.extractLsb' 4 4

/-- SEL, bits 3:0 of the command word (30_encoding R81). -/
def Byte.sel (cmd : Byte) : BitVec 4 := cmd.extractLsb' 0 4

/-- The 2-bit register address (20_memory R50; field REG of 30_encoding R82). -/
def RegAddr.code : RegAddr → BitVec 2
  | .tval => 0 | .cfg => 1 | .tlow => 2 | .thigh => 3

/-- FID, the number of a configuration field (30_encoding R84). -/
def ConfigField.fid : ConfigField → BitVec 3
  | .al => 0 | .cr => 1 | .sm => 2 | .im => 3 | .pol => 4 | .cf => 5 | .ss => 6

/-- The number of a latch in FAULT.info (60_exceptions R220). -/
def LatchId.code : LatchId → Byte
  | .rw => 0 | .rt => 1 | .rn => 2 | .rb => 3

/-- Why a command word is illegal (30_encoding R88): the forms the source rules out, by name, and the plain gaps. -/
inductive Illegal where
  /-- 0x80, SETF.AL: the alert status is read-only. -/
  | setAlertStatus
  /-- 0x30, WRREG TVAL: the temperature register is read-only in practice. -/
  | writeTemperature
  /-- 0x61 and 0x63, SETTH with U = 1: the threshold setter takes no unit. -/
  | thresholdUnit
  /-- Every other value outside the opcode map. -/
  | gap
  deriving DecidableEq, Repr

/-- Class 0x1, format C: SEL is a function number (30_encoding R85). -/
def decodeCodec (sel : BitVec 4) : Except Illegal Instr :=
  match sel.toNat with
  | 0 => .ok .dect
  | 1 => .ok .enct
  | 2 => .ok .c2f
  | 3 => .ok .f2c
  | 4 => .ok .pack
  | 5 => .ok .unpack
  | _ => .error .gap

/-- Class 0x2, format R: bits 3:2 are 00 and bits 1:0 the register (30_encoding R82). -/
def decodeRdreg (sel : BitVec 4) : Except Illegal Instr :=
  match (sel.extractLsb' 2 2).toNat, (sel.extractLsb' 0 2).toNat with
  | 0, 0 => .ok .rdregTval
  | 0, 1 => .ok .rdregCfg
  | 0, 2 => .ok .rdregTlow
  | 0, 3 => .ok .rdregThigh
  | _, _ => .error .gap

/-- Class 0x3, format R: TVAL cannot be written (30_encoding R82, R88). -/
def decodeWrreg (sel : BitVec 4) : Except Illegal Instr :=
  match (sel.extractLsb' 2 2).toNat, (sel.extractLsb' 0 2).toNat with
  | 0, 0 => .error .writeTemperature
  | 0, 1 => .ok .wrregCfg
  | 0, 2 => .ok .wrregTlow
  | 0, 3 => .ok .wrregThigh
  | _, _ => .error .gap

/-- Class 0x4, format T: WHICH must be 0, U is the unit (30_encoding R83). -/
def decodeRdtemp (sel : BitVec 4) : Except Illegal Instr :=
  match (sel.extractLsb' 2 2).toNat, sel[1], sel[0] with
  | 0, false, false => .ok .rdtempC
  | 0, false, true => .ok .rdtempF
  | _, _, _ => .error .gap

/-- Class 0x5, format T: WHICH selects the threshold, U the unit (30_encoding R83). -/
def decodeGetth (sel : BitVec 4) : Except Illegal Instr :=
  match (sel.extractLsb' 2 2).toNat, sel[1], sel[0] with
  | 0, false, false => .ok .getthLowC
  | 0, false, true => .ok .getthLowF
  | 0, true, false => .ok .getthHighC
  | 0, true, true => .ok .getthHighF
  | _, _, _ => .error .gap

/-- Class 0x6, format T: WHICH selects the threshold and U must be 0 (30_encoding R83, R88). -/
def decodeSetth (sel : BitVec 4) : Except Illegal Instr :=
  match (sel.extractLsb' 2 2).toNat, sel[1], sel[0] with
  | 0, false, false => .ok .setthLow
  | 0, true, false => .ok .setthHigh
  | 0, _, true => .error .thresholdUnit
  | _, _, _ => .error .gap

/-- Class 0x7, format F: bit 3 is 0 and bits 2:0 the field (30_encoding R84). -/
def decodeGetf (sel : BitVec 4) : Except Illegal Instr :=
  match sel[3], (sel.extractLsb' 0 3).toNat with
  | false, 0 => .ok .getfAl
  | false, 1 => .ok .getfCr
  | false, 2 => .ok .getfSm
  | false, 3 => .ok .getfIm
  | false, 4 => .ok .getfPol
  | false, 5 => .ok .getfCf
  | false, 6 => .ok .getfSs
  | _, _ => .error .gap

/-- Class 0x8, format F: as GETF, but AL cannot be set (30_encoding R84, R88). -/
def decodeSetf (sel : BitVec 4) : Except Illegal Instr :=
  match sel[3], (sel.extractLsb' 0 3).toNat with
  | false, 0 => .error .setAlertStatus
  | false, 1 => .ok .setfCr
  | false, 2 => .ok .setfSm
  | false, 3 => .ok .setfIm
  | false, 4 => .ok .setfPol
  | false, 5 => .ok .setfCf
  | false, 6 => .ok .setfSs
  | _, _ => .error .gap

/-- Class 0x9, format S: SEL must be 0000 (30_encoding R86). -/
def decodeSingle (sel : BitVec 4) : Except Illegal Instr :=
  match sel.toNat with
  | 0 => .ok .trigss
  | _ => .error .gap

/-- The decoder reads the class and then the selector layout of that class (30_encoding R81); it is total and reads the
command word alone (R89). -/
def decode (cmd : Byte) : Except Illegal Instr :=
  match cmd.cls.toNat with
  | 1 => decodeCodec cmd.sel
  | 2 => decodeRdreg cmd.sel
  | 3 => decodeWrreg cmd.sel
  | 4 => decodeRdtemp cmd.sel
  | 5 => decodeGetth cmd.sel
  | 6 => decodeSetth cmd.sel
  | 7 => decodeGetf cmd.sel
  | 8 => decodeSetf cmd.sel
  | 9 => decodeSingle cmd.sel
  | _ => .error .gap

/-- Format C (30_encoding R85). -/
def encodeC (fn : BitVec 4) : Byte := (1 : BitVec 4) ++ fn

/-- Format R (30_encoding R82). -/
def encodeR (cls : BitVec 4) (r : RegAddr) : Byte := cls ++ (0 : BitVec 2) ++ r.code

/-- Format T (30_encoding R83): `which` is true for THIGH, `u` is true for Fahrenheit. -/
def encodeT (cls : BitVec 4) (which u : Bool) : Byte :=
  cls ++ (0 : BitVec 2) ++ BitVec.ofBool which ++ BitVec.ofBool u

/-- Format F (30_encoding R84). -/
def encodeF (cls : BitVec 4) (f : ConfigField) : Byte := cls ++ (0 : BitVec 1) ++ f.fid

/-- Format S (30_encoding R86). -/
def encodeS : Byte := (9 : BitVec 4) ++ (0 : BitVec 4)

/-- The command word of a command, from the formats of 30_encoding R82 to R86. -/
def encode : Instr → Byte
  | .dect => encodeC 0
  | .enct => encodeC 1
  | .c2f => encodeC 2
  | .f2c => encodeC 3
  | .pack => encodeC 4
  | .unpack => encodeC 5
  | .rdregTval => encodeR 2 .tval
  | .rdregCfg => encodeR 2 .cfg
  | .rdregTlow => encodeR 2 .tlow
  | .rdregThigh => encodeR 2 .thigh
  | .wrregCfg => encodeR 3 .cfg
  | .wrregTlow => encodeR 3 .tlow
  | .wrregThigh => encodeR 3 .thigh
  | .rdtempC => encodeT 4 false false
  | .rdtempF => encodeT 4 false true
  | .getthLowC => encodeT 5 false false
  | .getthLowF => encodeT 5 false true
  | .getthHighC => encodeT 5 true false
  | .getthHighF => encodeT 5 true true
  | .setthLow => encodeT 6 false false
  | .setthHigh => encodeT 6 true false
  | .getfAl => encodeF 7 .al
  | .getfCr => encodeF 7 .cr
  | .getfSm => encodeF 7 .sm
  | .getfIm => encodeF 7 .im
  | .getfPol => encodeF 7 .pol
  | .getfCf => encodeF 7 .cf
  | .getfSs => encodeF 7 .ss
  | .setfCr => encodeF 8 .cr
  | .setfSm => encodeF 8 .sm
  | .setfIm => encodeF 8 .im
  | .setfPol => encodeF 8 .pol
  | .setfCf => encodeF 8 .cf
  | .setfSs => encodeF 8 .ss
  | .trigss => encodeS

/-- The decoder on a table word: a command is one byte, the low eight bits of the word. -/
def decodeTableWord (_nbits w : Nat) : Option Instr := (decode (BitVec.ofNat 8 w)).toOption

/-- The mnemonic of a command as 30_encoding R87 writes it. -/
def Instr.mnemonic : Instr → String
  | .dect => "DECT" | .enct => "ENCT" | .c2f => "C2F" | .f2c => "F2C" | .pack => "PACK" | .unpack => "UNPACK"
  | .rdregTval => "RDREG TVAL" | .rdregCfg => "RDREG CFG" | .rdregTlow => "RDREG TLOW" | .rdregThigh => "RDREG THIGH"
  | .wrregCfg => "WRREG CFG" | .wrregTlow => "WRREG TLOW" | .wrregThigh => "WRREG THIGH"
  | .rdtempC => "RDTEMP.C" | .rdtempF => "RDTEMP.F"
  | .getthLowC => "GETTH.LOW.C" | .getthLowF => "GETTH.LOW.F"
  | .getthHighC => "GETTH.HIGH.C" | .getthHighF => "GETTH.HIGH.F"
  | .setthLow => "SETTH.LOW" | .setthHigh => "SETTH.HIGH"
  | .getfAl => "GETF.AL" | .getfCr => "GETF.CR" | .getfSm => "GETF.SM" | .getfIm => "GETF.IM"
  | .getfPol => "GETF.POL" | .getfCf => "GETF.CF" | .getfSs => "GETF.SS"
  | .setfCr => "SETF.CR" | .setfSm => "SETF.SM" | .setfIm => "SETF.IM" | .setfPol => "SETF.POL"
  | .setfCf => "SETF.CF" | .setfSs => "SETF.SS"
  | .trigss => "TRIGSS"

/-- The operand ports a command reads (30_encoding R87, column 'operands read'). -/
def Instr.operands : Instr → List PortName
  | .dect => [.a]
  | .enct | .c2f | .f2c => [.t]
  | .pack => [.a, .off, .wid, .n]
  | .unpack => [.a, .off, .wid]
  | .rdregTval | .rdregCfg | .rdregTlow | .rdregThigh => []
  | .wrregCfg | .wrregTlow | .wrregThigh => [.a]
  | .rdtempC | .rdtempF => []
  | .getthLowC | .getthLowF | .getthHighC | .getthHighF => []
  | .setthLow | .setthHigh => [.t]
  | .getfAl | .getfCr | .getfSm | .getfIm | .getfPol | .getfCf | .getfSs => []
  | .setfCr | .setfCf => [.n]
  | .setfSm | .setfIm | .setfPol | .setfSs => [.b]
  | .trigss => []

/-- The result latch a command writes (30_encoding R87, column 'results'). -/
def Instr.result : Instr → Option LatchId
  | .dect | .c2f | .f2c => some .rt
  | .enct | .pack => some .rw
  | .unpack => some .rn
  | .rdregTval | .rdregCfg | .rdregTlow | .rdregThigh => some .rw
  | .wrregCfg | .wrregTlow | .wrregThigh => none
  | .rdtempC | .rdtempF => some .rt
  | .getthLowC | .getthLowF | .getthHighC | .getthHighF => some .rt
  | .setthLow | .setthHigh => none
  | .getfAl | .getfSm | .getfIm | .getfPol | .getfSs => some .rb
  | .getfCr | .getfCf => some .rn
  | .setfCr | .setfSm | .setfIm | .setfPol | .setfCf | .setfSs => none
  | .trigss => none

end Sys2Proof
end

