-- ==== Sys2Proof/Machine/State.lean ====
section
/-! DEFINITION. The state of the machine as plain data, the reasons a step can stop, and the state at the start of a run. -/

namespace Sys2Proof.Machine

/-- A result latch: its value and its valid bit (10_state R21 to R24). -/
structure Latch (α : Type) where
  value : α
  valid : Bool
  deriving DecidableEq, Repr

/-- FAULT.info (10_state R28, 60_exceptions R220): the 8-bit command word, or for ResultInvalid the latch id, and for a port
fault, and no other, the 2-bit register address (held as a record, DESIGN CHOICE, log 5). -/
structure FaultInfo where
  code : Byte
  reg  : Option (BitVec 2)
  deriving DecidableEq, Repr

/-- The fault register FAULT (10_state R28). -/
structure FaultReg where
  set   : Bool
  cause : BitVec 4
  info  : FaultInfo
  deriving DecidableEq, Repr

/-- What a host read of a result latch returns (60_exceptions R221), by the latch's type. -/
inductive LatchValue where
  | word (w : Word)
  | temp (t : Temp)
  | int (n : Nat)
  | bool (b : Bool)
  deriving DecidableEq, Repr

/-- One move of the schedule: which of the agents of 00_scope R6 goes next (log 9). -/
inductive Move where
  /-- The host reads a result latch (60_exceptions R221). -/
  | readLatch (l : LatchId)
  /-- The host asserts reset: between two commands (70_reset R250), or while BUSY = 1 (R252). -/
  | reset
  /-- The block runs to an outcome: its next command, or the one it is inside. -/
  | turn
  /-- The block goes one event on: it accepts its next command, or makes the next port transaction of the one it is inside,
  or ends it (log 12). -/
  | part
  deriving DecidableEq, Repr

/-- The state of the block, the host and the register port. -/
structure State where
  /-- The word result latch RW (10_state R21). -/
  rw : Latch Word
  /-- The temperature result latch RT (10_state R22). -/
  rt : Latch Temp
  /-- The integer result latch RN (10_state R23). -/
  rn : Latch Nat
  /-- The Boolean result latch RB (10_state R24). -/
  rb : Latch Bool
  /-- The fault register (10_state R28). -/
  fault : FaultReg
  /-- The busy flag (10_state R29). -/
  busy : Bool
  /-- How far a read-modify-write has come while BUSY = 1: `some before` once its read is complete and CFGL holds the word read
  (10_state R43), where `before` is what CFGL held when the command was accepted (the model's own field, log 12). -/
  half : Option Word
  /-- The configuration latch CFGL (10_state R43). -/
  cfgl : Word
  /-- DEV_ADDR (10_state R45) and the other integration parameters (00_scope R10 to R12): no step changes them. -/
  params : Params
  /-- The command and operand ports as last sampled (30_encoding R80). -/
  port : Request
  /-- The host sequencer's command list (10_state R27). -/
  prog : List Request
  /-- The host sequencer's index (10_state R27). -/
  pc : Nat
  /-- The moves still to come, next first; after them the block moves on its own (the model's own field, log 9). -/
  moves : List Move
  /-- What the host's last latch read returned (the model's own field, log 9). -/
  hostData : Option LatchValue
  /-- The port history, oldest event first (20_memory R68). -/
  history : List Event
  /-- The register bank behind the port: who answers (00_scope R13, 20_memory R58). -/
  bank : Bank
  /-- How many port transactions have been attempted: the index of the free answers (the model's own field, log 10). -/
  draws : Nat
  deriving DecidableEq, Repr

/-- The reasons a step stops without a next state: there are none. A fault of the block (60_exceptions R220) is not one of
them: it is a next state with FAULT set. -/
inductive Fault where
  deriving DecidableEq, Repr

/-- The reasons an instruction has no meaning. -/
inductive Refusal where
  /-- Raised by an arm of `exec` whose instruction is not modelled yet; no arm does. Safe. -/
  | notModelled (mnemonic : String)
  deriving DecidableEq, Repr

/-- FAULT after reset: no fault, cause 0, info 0 with no register address (70_reset R250). -/
def FaultReg.none : FaultReg := { set := false, cause := 0, info := { code := 0, reg := .none } }

/-- The operand ports before the host has presented anything: all zero (DESIGN CHOICE, log 4). -/
def idleRequest : Request := { cmd := 0, a := 0, t := 0, off := 0, wid := 0, n := 0, b := false }

/-- The machine at the start of a run (70_reset R250): no fault, not busy, every valid bit 0, pc 0, an empty history. The
values of the invalid latches and of CFGL are unspecified in the spec and 0 here (DESIGN CHOICE, logs 2 and 3); the command
list and the schedule are empty until a program is loaded (logs 8 and 9); the register bank is the normative oracle (log 10). -/
def State.reset : State :=
  { rw := { value := 0, valid := false }
    rt := { value := 0, valid := false }
    rn := { value := 0, valid := false }
    rb := { value := false, valid := false }
    fault := FaultReg.none
    busy := false
    half := none
    cfgl := 0
    params := Config.defaultParams
    port := idleRequest
    prog := []
    pc := 0
    moves := []
    hostData := none
    history := []
    bank := .oracle []
    draws := 0 }

end Sys2Proof.Machine
end

