-- ==== Sys2Proof/Machine/Flags.lean ====
section
/-! DEFINITION. The Boolean state of the block: the four valid bits, FAULT.set and BUSY (10_state R44). There are no condition
codes; no command sets a flag as a side effect. -/

namespace Sys2Proof.Machine

/-- The latch with its valid bit cleared. What value it then holds is unspecified (93_implementation_defined I11), after reset
and after a command that did not write it alike: here the value stays, unreadable while the valid bit is 0 (DESIGN CHOICE,
log 2). -/
def Latch.invalid {α : Type} (l : Latch α) : Latch α := { l with valid := false }

/-- The latch written with a result: the value, and the valid bit set (10_state R25). -/
def Latch.written {α : Type} (v : α) : Latch α := { value := v, valid := true }

/-- What a read of the latch yields: its value while the valid bit is 1, nothing otherwise (10_state R25). -/
def Latch.read {α : Type} (l : Latch α) : Option α := if l.valid then some l.value else none

/-- The four valid bits cleared (10_state R25). That the values stay is the model's choice (DESIGN CHOICE, log 2). -/
def State.clearValid (s : State) : State :=
  { s with rw := s.rw.invalid, rt := s.rt.invalid, rn := s.rn.invalid, rb := s.rb.invalid }

/-- The start of a command: the valid bits are cleared before any other effect (10_state R25) and BUSY is set (R29). No read of
it is complete. -/
def State.start (s : State) : State := { s.clearValid with busy := true, half := none }

/-- The outcome Done (00_scope R18): BUSY falls (10_state R29) and the sequencer's index advances by 1 (R27).
A latch the command did not write, and CFGL, keep what they hold (DESIGN CHOICE, logs 2 and 3). -/
def State.done (s : State) : State := { s with busy := false, half := none, pc := s.pc + 1 }

/-- Whether the block accepts a command: BUSY = 0 and FAULT.set = 0 (30_encoding R80, 60_exceptions R228). -/
def State.accepts (s : State) : Bool := !s.busy && !s.fault.set

/-- RW written with its valid bit set (10_state R21). -/
def State.setRW (v : Word) (s : State) : State := { s with rw := Latch.written v }

/-- RT written with its valid bit set (10_state R22). -/
def State.setRT (v : Temp) (s : State) : State := { s with rt := Latch.written v }

/-- RN written with its valid bit set (10_state R23). -/
def State.setRN (v : Nat) (s : State) : State := { s with rn := Latch.written v }

/-- RB written with its valid bit set (10_state R24). -/
def State.setRB (v : Bool) (s : State) : State := { s with rb := Latch.written v }

end Sys2Proof.Machine
end

