-- ==== Sys2Proof/Machine/Operands.lean ====
section
/-! DEFINITION. The functions on operands and words: temperature decode and encode, unit conversion, field pack and unpack,
the configuration field table and its logical values. -/

namespace Sys2Proof

/-- The number of LSB a raw word decodes to (40_codec R100): `r` below 32768 on the unsigned reading, else `-(r - 1)`. -/
def decodeLsb (w : Word) : Int :=
  if w.toNat < 32768 then (w.toNat : Int) else -((w.toNat : Int) - 1)

/-- `decode(w)` (40_codec R100): the temperature of a raw word, in degrees Celsius, 1/128 per LSB (00_scope R9). -/
def decodeTemp (w : Word) : Temp := (decodeLsb w : Rat) / 128

/-- `trunc(T * 128)` (40_codec R101): truncation toward zero of the exact product (00_scope R15, R17). -/
def truncLsb (t : Temp) : Int := (t * 128).num.tdiv ((t * 128).den : Int)

/-- Whether a truncated quotient fits a 16-bit two's-complement word (40_codec R101). -/
def encodable (q : Int) : Bool := decide (-32768 ≤ q) && decide (q ≤ 32767)

/-- `encode(T)` (40_codec R101): the raw word, or nothing where the quotient does not fit (EncodeRange). -/
def encodeTemp (t : Temp) : Option Word :=
  if encodable (truncLsb t) then some (BitVec.ofInt 16 (truncLsb t)) else none

/-- C2F_NUM (00_scope R11): exact rationals in the reference instantiation, otherwise the implementation's function. -/
def Numerics.toFahrenheit (n : Numerics) (c : Temp) : Temp :=
  match n with
  | .reference => c * 9 / 5 + 32
  | .implementation => Config.c2fNum c

/-- F2C_NUM (00_scope R11): exact rationals in the reference instantiation, otherwise the implementation's function. -/
def Numerics.toCelsius (n : Numerics) (f : Temp) : Temp :=
  match n with
  | .reference => (f - 32) * 5 / 9
  | .implementation => Config.f2cNum f

/-- Whether PACK and UNPACK accept a field (40_codec R104): otherwise PackRange. -/
def fieldInRange (f : Field) : Bool := decide (f.wid ≠ 0) && decide (f.off + f.wid ≤ 16)

/-- The mask `(2^WID - 1) * 2^OFF` of a field (40_codec R104). -/
def fieldMask (f : Field) : Word := BitVec.ofNat 16 (2 ^ f.wid - 1) <<< f.off

/-- `pack(w, OFF, WID, v)` (40_codec R104): the field replaced by the low WID bits of `v`. -/
def packField (w : Word) (f : Field) (v : Int) : Word :=
  (w &&& ~~~ fieldMask f) ||| (BitVec.ofInt 16 (v % 2 ^ f.wid) <<< f.off)

/-- `unpack(w, OFF, WID)` (40_codec R105): the field, zero-extended. -/
def unpackField (w : Word) (f : Field) : Nat := w.toNat / 2 ^ f.off % 2 ^ f.wid

/-- The offset and width of each configuration field (10_state R30, 00_scope R14). -/
def ConfigField.field : ConfigField → Field
  | .al => { off := 5, wid := 1 }
  | .cr => { off := 6, wid := 2 }
  | .sm => { off := 8, wid := 1 }
  | .im => { off := 9, wid := 1 }
  | .pol => { off := 10, wid := 1 }
  | .cf => { off := 11, wid := 2 }
  | .ss => { off := 15, wid := 1 }

/-- A single-bit field as a Boolean (10_state R24, 42_config_fields R170). -/
def unpackBool (w : Word) (f : ConfigField) : Bool := unpackField w f.field == 1

/-- The stored value of a Boolean (42_config_fields R196). -/
def storedBool (b : Bool) : Int := if b then 1 else 0

/-- `CRMS` (42_config_fields R171): the cycle time in milliseconds of a conversion-rate code, 0 for any other code. -/
def cycleTimeMs : Nat → Nat
  | 0 => 4000
  | 1 => 1000
  | 2 => 250
  | 3 => 125
  | _ => 0

/-- The conversion-rate code of a cycle time in milliseconds; no code for any other value (42_config_fields R191). -/
def cycleTimeCode (n : Int) : Option Int :=
  if n = 4000 then some 0
  else if n = 1000 then some 1
  else if n = 250 then some 2
  else if n = 125 then some 3
  else none

/-- The stored code of a consecutive-fault count; no code outside 1 to 4 (10_state R36, 42_config_fields R192). -/
def faultCountCode (n : Int) : Option Int :=
  if n < 1 ∨ 4 < n then none else some (n - 1)

/-- The logical count of a stored consecutive-fault code (42_config_fields R175). -/
def faultCount (code : Nat) : Nat := code + 1

/-- The field the operand ports OFF and WID select (30_encoding R90). -/
def Request.field (q : Request) : Field := { off := q.off.toNat, wid := q.wid.toNat }

end Sys2Proof
end

