-- ==== Sys2Proof/Machine/Port.lean ====
section
/-! DEFINITION. The register port: the byte order of the wire, the answers of the transport, the store oracle's image and the
frames on the bus (20_memory). -/

namespace Sys2Proof

/-- The byte of a word that travels first (20_memory R53). -/
def wordHi (w : Word) : Byte := w.extractLsb' 8 8

/-- The byte of a word that travels second (20_memory R53). -/
def wordLo (w : Word) : Byte := w.extractLsb' 0 8

/-- The word of two received bytes, most significant byte first: `b0*256 + b1` (20_memory R53). -/
def wordOfBytes (b0 b1 : Byte) : Word := BitVec.ofNat 16 (b0.toNat * 256 + b1.toNat)

/-- The answer the block makes of what the transport delivers: a word of two bytes, or Fail on a short read or a transport
failure; a partial buffer is never decoded (20_memory R56, 70_reset R258). -/
def ReadAnswer.toWord : ReadAnswer → Option Word
  | .bytes b0 b1 => some (wordOfBytes b0 b1)
  | .short _ => none
  | .failed => none

/-- One register of an image (20_memory R58). -/
def Image.get (m : Image) : RegAddr → Word
  | .tval => m.tval
  | .cfg => m.cfg
  | .tlow => m.tlow
  | .thigh => m.thigh

/-- The word of register `r` under the store oracle (20_memory R58): that of the latest write to `r` in the history, or the
initial image's. -/
def storeWord (m0 : Image) (h : List Event) (r : RegAddr) : Word :=
  h.foldl (fun w e => match e with
    | .rd _ _ => w
    | .wr r' v => if r' = r then v else w) (m0.get r)

/-- The bank after `k` transactions: the answers given are used up. -/
def Bank.advance (k : Nat) : Bank → Bank
  | .oracle answers => .oracle (answers.drop k)
  | .store m0 => .store m0

/-- One frame on the two-wire bus, addressed to the register bank: a write of bytes, or a read that delivers bytes. -/
inductive Frame where
  | write (dev : BitVec 7) (bytes : List Byte)
  | read (dev : BitVec 7) (bytes : List Byte)
  deriving DecidableEq, Repr

/-- The byte that selects a register (20_memory R54): 0x00 to 0x03. -/
def selectByte (r : RegAddr) : Byte := r.code.zeroExtend 8

/-- The frames of one event (20_memory R53 to R55): a read is a register-select write of one byte and a two-byte read, a write
is one frame of three bytes; words travel most significant byte first. An event is a completed transaction; one that fails has none (log 21). -/
def Event.frames (dev : BitVec 7) : Event → List Frame
  | .rd r w => [.write dev [selectByte r], .read dev [wordHi w, wordLo w]]
  | .wr r w => [.write dev [selectByte r, wordHi w, wordLo w]]

end Sys2Proof
end

