-- ==== Sys2Proof/Machine/Ops.lean ====
section
/-! DEFINITION. The shared operations: taking a fault, the reads and writes of the register port, reset, and the shapes the
commands are built from. -/

namespace Sys2Proof.Machine

/-! ## Taking a fault -/

/-- The fault causes a command or the host can raise (60_exceptions R220). -/
inductive Cause where
  | illegalOperation | packRange | encodeRange | portReadFault | portWriteFault | resultInvalid
  deriving DecidableEq, Repr

/-- FAULT.cause (60_exceptions R220). -/
def Cause.code : Cause → BitVec 4
  | .illegalOperation => 1
  | .packRange => 2
  | .encodeRange => 3
  | .portReadFault => 4
  | .portWriteFault => 5
  | .resultInvalid => 6

/-- FAULT is written only while FAULT.set = 0, so that it keeps the first fault (60_exceptions R227). -/
def FaultReg.record (f : FaultReg) (c : Cause) (info : FaultInfo) : FaultReg :=
  if f.set then f else { set := true, cause := c.code, info := info }

/-- Fault entry (60_exceptions R224): FAULT records the cause and BUSY falls. Nothing else is saved and control goes nowhere
(R225); the sequencer's index stays (10_state R27). There is no return: only reset clears FAULT (R227). -/
def State.takeFault (c : Cause) (info : FaultInfo) (s : State) : State :=
  { s with fault := s.fault.record c info, busy := false, half := none }

/-- A fault of command `i` other than a port fault: FAULT.info is its command word (60_exceptions R220). -/
def State.commandFault (i : Instr) (c : Cause) (s : State) : State := s.takeFault c { code := encode i, reg := none }

/-- A port fault of command `i` at register `r`: FAULT.info is the command word and the register (60_exceptions R220). -/
def State.portFault (i : Instr) (c : Cause) (r : RegAddr) (s : State) : State :=
  s.takeFault c { code := encode i, reg := some r.code }

/-! ## Reset -/

/-- Reset (70_reset R250): the block's state as after reset, a command in flight abandoned (R252), and the sequencer's index 0.
The integration parameters and the register bank stay (R250, R251), and so do the port events already completed (R252), what
the host presents, its schedule, and what it has read (log 13). -/
def State.applyReset (s : State) : State :=
  { s with
    rw := State.reset.rw, rt := State.reset.rt, rn := State.reset.rn, rb := State.reset.rb
    fault := State.reset.fault, busy := State.reset.busy, half := State.reset.half, cfgl := State.reset.cfgl
    pc := State.reset.pc }

/-! ## The register port -/

/-- What the transport delivers for a read of `r` now (20_memory R56, R58). -/
def State.readAnswer (r : RegAddr) (s : State) : ReadAnswer :=
  match s.bank with
  | .store m0 => .bytes (wordHi (storeWord m0 s.history r)) (wordLo (storeWord m0 s.history r))
  | .oracle (a :: _) => a.read
  | .oracle [] => Config.oracle s.params.devAddr s.draws s.history r

/-- The oracle's answer to a read of `r` now: `some w` for Ok(w), `none` for Fail (00_scope R13, 20_memory R56). -/
def State.portRead (r : RegAddr) (s : State) : Option Word := (s.readAnswer r).toWord

/-- Whether the transport takes a write of `w` to `r` now (20_memory R57, R58): high byte first. -/
def State.portAck (r : RegAddr) (w : Word) (s : State) : Bool :=
  match s.bank with
  | .store _ => true
  | .oracle (a :: _) => a.ack
  | .oracle [] => Config.portWrite s.params.devAddr s.draws s.history r (wordHi w) (wordLo w)

/-- One transaction attempted: its answer is used up, whatever it was. -/
def State.drawn (s : State) : State := { s with bank := s.bank.advance 1, draws := s.draws + 1 }

/-- One transaction completed: its event is appended to the history (20_memory R60, R68). -/
def State.logged (e : Event) (s : State) : State := { s.drawn with history := s.history ++ [e] }

/-- `MemRead(r, 2)` of command `i` (20_memory R56): the word goes to `k`, or PortReadFault is raised and no event recorded. -/
def memRead (i : Instr) (r : RegAddr) (k : Word → State → State) (s : State) : State :=
  match s.portRead r with
  | some w => k w (s.logged (.rd r w))
  | none => s.drawn.portFault i .portReadFault r

/-- `MemWrite(r, 2, w)` as the last act of command `i` (20_memory R57): Done, or PortWriteFault with no event recorded. -/
def memWrite (i : Instr) (r : RegAddr) (w : Word) (s : State) : State :=
  if s.portAck r w then (s.logged (.wr r w)).done else s.drawn.portFault i .portWriteFault r

/-- What the block has put on the bus in completed transactions, in order, all of it to DEV_ADDR (00_scope R10). How far a failed or
short transaction gets, and so what it puts on the bus, the spec does not say (20_memory R54 to R57): this trace leaves it out
(DESIGN CHOICE, log 21). -/
def State.busTrace (s : State) : List Frame := s.history.flatMap (Event.frames s.params.devAddr)

/-! ## The shapes of commands -/

/-- A command that computes and writes one latch: no port traffic (40_codec). -/
def compute (k : State → State) (s : State) : State := (k s.start).done

/-- A command that reads register `r` and puts a result of the word read into a latch (41_register_port, 42_config_fields). -/
def readCommand (i : Instr) (r : RegAddr) (k : Word → State → State) (s : State) : State :=
  memRead i r (fun w t => (k w t).done) s.start

/-- A command that writes a whole register with no read before it (41_register_port R134). -/
def writeCommand (i : Instr) (r : RegAddr) (w : Word) (s : State) : State := memWrite i r w s.start

/-- A threshold setter (41_register_port R143): the encode is checked before any port traffic (60_exceptions R222). -/
def thresholdCommand (i : Instr) (r : RegAddr) (t : Temp) (s : State) : State :=
  match encodeTemp t with
  | some w => writeCommand i r w s
  | none => s.start.commandFault i .encodeRange

/-- The second half of a read-modify-write: CFGL holds the word read until the word to write back has been computed from it
(10_state R43). A write that faults leaves no effect but the history and FAULT (60_exceptions R224): CFGL is then as it was before
the command. Outside a read-modify-write CFGL is unspecified (93_implementation_defined I12): here it keeps the word read once
the command is Done, and through later commands until one reads CFG again (DESIGN CHOICE, log 3). -/
def writeBack (i : Instr) (before : Word) (f : ConfigField) (v : Int) (s : State) : State :=
  if s.portAck .cfg (packField s.cfgl f.field v) then
    (s.logged (.wr .cfg (packField s.cfgl f.field v))).done
  else
    { s with cfgl := before }.drawn.portFault i .portWriteFault .cfg

/-- The read-modify-write of field `f` with the stored value `v` (42_config_fields R190). -/
def setFieldCommand (i : Instr) (f : ConfigField) (v : Int) (s : State) : State :=
  memRead i .cfg (fun w t => writeBack i s.cfgl f v { t with cfgl := w }) s.start

/-- A setter of a logical value (42_config_fields R191, R192): a value with no stored code is silently discarded, with no port
traffic; validation comes before the read. -/
def setLogicalCommand (i : Instr) (f : ConfigField) (code : Option Int) (s : State) : State :=
  match code with
  | some v => setFieldCommand i f v s
  | none => s.start.done

/-- The single-shot trigger (42_config_fields R199): a read of CFG, and a write with SS set only where SM was 1. Where nothing is
written CFGL keeps the word read too (DESIGN CHOICE, log 3). -/
def triggerCommand (i : Instr) (s : State) : State :=
  memRead i .cfg (fun w t =>
    if unpackBool w .sm then writeBack i s.cfgl .ss 1 { t with cfgl := w } else { t with cfgl := w }.done) s.start

/-- PACK and UNPACK check their field before anything else (40_codec R104, R105). -/
def fieldCommand (i : Instr) (k : State → State) (s : State) : State :=
  if fieldInRange s.port.field then compute k s else s.start.commandFault i .packRange

end Sys2Proof.Machine
end

