-- ==== Sys2Proof/Machine/Codec.lean ====
section
/-! DEFINITION. The codec commands: temperature decode and encode, unit conversion, field pack and unpack (40_codec). -/

namespace Sys2Proof.Machine

/-- DECT (40_codec R100). -/
def execDect (s : State) : Host.Outcome State Fault Refusal :=
  .next (compute (State.setRT (decodeTemp s.port.a)) s)

/-- ENCT (40_codec R101). -/
def execEnct (s : State) : Host.Outcome State Fault Refusal :=
  .next (match encodeTemp s.port.t with
    | some w => compute (State.setRW w) s
    | none => s.start.commandFault .enct .encodeRange)

/-- C2F (40_codec R102). -/
def execC2f (s : State) : Host.Outcome State Fault Refusal :=
  .next (compute (State.setRT (s.params.numerics.toFahrenheit s.port.t)) s)

/-- F2C (40_codec R103). -/
def execF2c (s : State) : Host.Outcome State Fault Refusal :=
  .next (compute (State.setRT (s.params.numerics.toCelsius s.port.t)) s)

/-- PACK (40_codec R104). -/
def execPack (s : State) : Host.Outcome State Fault Refusal :=
  .next (fieldCommand .pack (State.setRW (packField s.port.a s.port.field s.port.n)) s)

/-- UNPACK (40_codec R105). -/
def execUnpack (s : State) : Host.Outcome State Fault Refusal :=
  .next (fieldCommand .unpack (State.setRN (unpackField s.port.a s.port.field)) s)

end Sys2Proof.Machine
end

