-- ==== Sys2Proof/Machine/ConfigFields.lean ====
section
/-! DEFINITION. The configuration-field commands: the seven getters, the six setters and the single-shot trigger
(42_config_fields). -/

namespace Sys2Proof.Machine

/-- GETF.AL (42_config_fields R170). -/
def execGetfAl (s : State) : Host.Outcome State Fault Refusal :=
  .next (readCommand .getfAl .cfg (fun w => State.setRB (unpackBool w .al)) s)

/-- GETF.CR (42_config_fields R171). -/
def execGetfCr (s : State) : Host.Outcome State Fault Refusal :=
  .next (readCommand .getfCr .cfg
    (fun w => State.setRN (cycleTimeMs (unpackField w ConfigField.cr.field))) s)

/-- GETF.SM (42_config_fields R172). -/
def execGetfSm (s : State) : Host.Outcome State Fault Refusal :=
  .next (readCommand .getfSm .cfg (fun w => State.setRB (unpackBool w .sm)) s)

/-- GETF.IM (42_config_fields R173). -/
def execGetfIm (s : State) : Host.Outcome State Fault Refusal :=
  .next (readCommand .getfIm .cfg (fun w => State.setRB (unpackBool w .im)) s)

/-- GETF.POL (42_config_fields R174). -/
def execGetfPol (s : State) : Host.Outcome State Fault Refusal :=
  .next (readCommand .getfPol .cfg (fun w => State.setRB (unpackBool w .pol)) s)

/-- GETF.CF (42_config_fields R175). -/
def execGetfCf (s : State) : Host.Outcome State Fault Refusal :=
  .next (readCommand .getfCf .cfg
    (fun w => State.setRN (faultCount (unpackField w ConfigField.cf.field))) s)

/-- GETF.SS (42_config_fields R176). -/
def execGetfSs (s : State) : Host.Outcome State Fault Refusal :=
  .next (readCommand .getfSs .cfg (fun w => State.setRB (unpackBool w .ss)) s)

/-- SETF.CR (42_config_fields R191). -/
def execSetfCr (s : State) : Host.Outcome State Fault Refusal :=
  .next (setLogicalCommand .setfCr .cr (cycleTimeCode s.port.n) s)

/-- SETF.SM (42_config_fields R193). -/
def execSetfSm (s : State) : Host.Outcome State Fault Refusal :=
  .next (setFieldCommand .setfSm .sm (storedBool s.port.b) s)

/-- SETF.IM (42_config_fields R194). -/
def execSetfIm (s : State) : Host.Outcome State Fault Refusal :=
  .next (setFieldCommand .setfIm .im (storedBool s.port.b) s)

/-- SETF.POL (42_config_fields R195). -/
def execSetfPol (s : State) : Host.Outcome State Fault Refusal :=
  .next (setFieldCommand .setfPol .pol (storedBool s.port.b) s)

/-- SETF.CF (42_config_fields R192). -/
def execSetfCf (s : State) : Host.Outcome State Fault Refusal :=
  .next (setLogicalCommand .setfCf .cf (faultCountCode s.port.n) s)

/-- SETF.SS (42_config_fields R198): no sleep-mode guard. -/
def execSetfSs (s : State) : Host.Outcome State Fault Refusal :=
  .next (setFieldCommand .setfSs .ss (storedBool s.port.b) s)

/-- TRIGSS (42_config_fields R199). -/
def execTrigss (s : State) : Host.Outcome State Fault Refusal :=
  .next (triggerCommand .trigss s)

end Sys2Proof.Machine
end

