-- ==== Sys2Proof/Machine/RegisterPort.lean ====
section
/-! DEFINITION. The register-port commands: whole-register reads and writes, the temperature and the thresholds
(41_register_port). -/

namespace Sys2Proof.Machine

/-- RDREG TVAL (41_register_port R130). -/
def execRdregTval (s : State) : Host.Outcome State Fault Refusal :=
  .next (readCommand .rdregTval .tval State.setRW s)

/-- RDREG CFG (41_register_port R131). -/
def execRdregCfg (s : State) : Host.Outcome State Fault Refusal :=
  .next (readCommand .rdregCfg .cfg State.setRW s)

/-- RDREG TLOW (41_register_port R132). -/
def execRdregTlow (s : State) : Host.Outcome State Fault Refusal :=
  .next (readCommand .rdregTlow .tlow State.setRW s)

/-- RDREG THIGH (41_register_port R133). -/
def execRdregThigh (s : State) : Host.Outcome State Fault Refusal :=
  .next (readCommand .rdregThigh .thigh State.setRW s)

/-- WRREG CFG (41_register_port R134). -/
def execWrregCfg (s : State) : Host.Outcome State Fault Refusal :=
  .next (writeCommand .wrregCfg .cfg s.port.a s)

/-- WRREG TLOW (41_register_port R135). -/
def execWrregTlow (s : State) : Host.Outcome State Fault Refusal :=
  .next (writeCommand .wrregTlow .tlow s.port.a s)

/-- WRREG THIGH (41_register_port R136). -/
def execWrregThigh (s : State) : Host.Outcome State Fault Refusal :=
  .next (writeCommand .wrregThigh .thigh s.port.a s)

/-- RDTEMP.C (41_register_port R137). -/
def execRdtempC (s : State) : Host.Outcome State Fault Refusal :=
  .next (readCommand .rdtempC .tval (fun w => State.setRT (decodeTemp w)) s)

/-- RDTEMP.F (41_register_port R138). -/
def execRdtempF (s : State) : Host.Outcome State Fault Refusal :=
  .next (readCommand .rdtempF .tval (fun w => State.setRT (s.params.numerics.toFahrenheit (decodeTemp w))) s)

/-- GETTH.LOW.C (41_register_port R139). -/
def execGetthLowC (s : State) : Host.Outcome State Fault Refusal :=
  .next (readCommand .getthLowC .tlow (fun w => State.setRT (decodeTemp w)) s)

/-- GETTH.LOW.F (41_register_port R140). -/
def execGetthLowF (s : State) : Host.Outcome State Fault Refusal :=
  .next (readCommand .getthLowF .tlow (fun w => State.setRT (s.params.numerics.toFahrenheit (decodeTemp w))) s)

/-- GETTH.HIGH.C (41_register_port R141). -/
def execGetthHighC (s : State) : Host.Outcome State Fault Refusal :=
  .next (readCommand .getthHighC .thigh (fun w => State.setRT (decodeTemp w)) s)

/-- GETTH.HIGH.F (41_register_port R142). -/
def execGetthHighF (s : State) : Host.Outcome State Fault Refusal :=
  .next (readCommand .getthHighF .thigh (fun w => State.setRT (s.params.numerics.toFahrenheit (decodeTemp w))) s)

/-- SETTH.LOW (41_register_port R143). -/
def execSetthLow (s : State) : Host.Outcome State Fault Refusal :=
  .next (thresholdCommand .setthLow .tlow s.port.t s)

/-- SETTH.HIGH (41_register_port R144). -/
def execSetthHigh (s : State) : Host.Outcome State Fault Refusal :=
  .next (thresholdCommand .setthHigh .thigh s.port.t s)

end Sys2Proof.Machine
end

