-- ==== Sys2Proof/Machine/Dispatch.lean ====
section
/-! DEFINITION. The meaning of every command, one arm per constructor. -/

namespace Sys2Proof.Machine

/-- The execution of an accepted command on the sampled ports, to its outcome. -/
def exec (i : Instr) (s : State) : Host.Outcome State Fault Refusal :=
  match i with
  | .dect => Sys2Proof.Machine.execDect s
  | .enct => Sys2Proof.Machine.execEnct s
  | .c2f => Sys2Proof.Machine.execC2f s
  | .f2c => Sys2Proof.Machine.execF2c s
  | .pack => Sys2Proof.Machine.execPack s
  | .unpack => Sys2Proof.Machine.execUnpack s
  | .rdregTval => Sys2Proof.Machine.execRdregTval s
  | .rdregCfg => Sys2Proof.Machine.execRdregCfg s
  | .rdregTlow => Sys2Proof.Machine.execRdregTlow s
  | .rdregThigh => Sys2Proof.Machine.execRdregThigh s
  | .wrregCfg => Sys2Proof.Machine.execWrregCfg s
  | .wrregTlow => Sys2Proof.Machine.execWrregTlow s
  | .wrregThigh => Sys2Proof.Machine.execWrregThigh s
  | .rdtempC => Sys2Proof.Machine.execRdtempC s
  | .rdtempF => Sys2Proof.Machine.execRdtempF s
  | .getthLowC => Sys2Proof.Machine.execGetthLowC s
  | .getthLowF => Sys2Proof.Machine.execGetthLowF s
  | .getthHighC => Sys2Proof.Machine.execGetthHighC s
  | .getthHighF => Sys2Proof.Machine.execGetthHighF s
  | .setthLow => Sys2Proof.Machine.execSetthLow s
  | .setthHigh => Sys2Proof.Machine.execSetthHigh s
  | .getfAl => Sys2Proof.Machine.execGetfAl s
  | .getfCr => Sys2Proof.Machine.execGetfCr s
  | .getfSm => Sys2Proof.Machine.execGetfSm s
  | .getfIm => Sys2Proof.Machine.execGetfIm s
  | .getfPol => Sys2Proof.Machine.execGetfPol s
  | .getfCf => Sys2Proof.Machine.execGetfCf s
  | .getfSs => Sys2Proof.Machine.execGetfSs s
  | .setfCr => Sys2Proof.Machine.execSetfCr s
  | .setfSm => Sys2Proof.Machine.execSetfSm s
  | .setfIm => Sys2Proof.Machine.execSetfIm s
  | .setfPol => Sys2Proof.Machine.execSetfPol s
  | .setfCf => Sys2Proof.Machine.execSetfCf s
  | .setfSs => Sys2Proof.Machine.execSetfSs s
  | .trigss => Sys2Proof.Machine.execTrigss s

end Sys2Proof.Machine
end

