-- ==== Sys2Proof/Machine/Sequencer.lean ====
section
/-! DEFINITION. The host's side: presenting a command, whole or in parts, reading a latch, resetting the block, and the
default-settings preset. -/

namespace Sys2Proof.Machine

/-! ## Commands -/

/-- The block samples the command and operand ports (30_encoding R80). -/
def State.present (q : Request) (s : State) : State := { s with port := q }

/-- An illegal command word (30_encoding R88): IllegalOperation before any other effect but the valid-bit clear. -/
def illegalCommand (cmd : Byte) (s : State) : State := s.start.takeFault .illegalOperation { code := cmd, reg := none }

/-- A request the block has accepted: decoded and executed to its outcome (30_encoding R80, R89). -/
def runRequest (q : Request) (s : State) : Host.Outcome State Fault Refusal :=
  match decode q.cmd with
  | .ok i => exec i (s.present q)
  | .error _ => .next (illegalCommand q.cmd (s.present q))

/-- The request the sequencer presents and the block accepts: the list's entry at pc (10_state R27), only while BUSY = 0 and
FAULT.set = 0 (30_encoding R80). -/
def State.nextRequest (s : State) : Option Request := if s.accepts then s.prog[s.pc]? else none

/-! ## A command in parts -/

/-- The request is accepted (30_encoding R80): sampled, the valid bits cleared (10_state R25), BUSY set (R29), and no port
transaction made yet. -/
def State.accept (q : Request) (s : State) : State := (s.present q).start

/-- The field and the stored value command `i` writes by a read-modify-write on the request `q` (42_config_fields R190 to R199);
nothing for a discarded setter and for every command that is none. -/
def readModifyWrite (i : Instr) (q : Request) : Option (ConfigField × Int) :=
  match i with
  | .setfCr => (cycleTimeCode q.n).map fun v => (.cr, v)
  | .setfSm => some (.sm, storedBool q.b)
  | .setfIm => some (.im, storedBool q.b)
  | .setfPol => some (.pol, storedBool q.b)
  | .setfCf => (faultCountCode q.n).map fun v => (.cf, v)
  | .setfSs => some (.ss, storedBool q.b)
  | .trigss => some (.ss, 1)
  | .dect | .enct | .c2f | .f2c | .pack | .unpack
  | .rdregTval | .rdregCfg | .rdregTlow | .rdregThigh | .wrregCfg | .wrregTlow | .wrregThigh
  | .rdtempC | .rdtempF | .getthLowC | .getthLowF | .getthHighC | .getthHighF | .setthLow | .setthHigh
  | .getfAl | .getfCr | .getfSm | .getfIm | .getfPol | .getfCf | .getfSs => none

/-- Whether a read-modify-write that read `w` goes on to its write: TRIGSS only where SM was 1 (42_config_fields R199). -/
def writesAfter (i : Instr) (w : Word) : Bool := i != .trigss || unpackBool w .sm

/-- The read of a read-modify-write, on its own: two port transactions are not atomic (20_memory R64). Where a write follows, the
block stays inside the command with the word read in CFGL (10_state R43). -/
def readHalf (i : Instr) (s : State) : State :=
  memRead i .cfg (fun w t =>
    if writesAfter i w then { t with cfgl := w, half := some s.cfgl } else { t with cfgl := w }.done) s.start

/-- The rest of the command the block is inside, to its outcome: of a read-modify-write whose read is complete the write, computed
from CFGL (10_state R43, 70_reset R255 to R257); otherwise all of it, no transaction having been made. -/
def finish (s : State) : Host.Outcome State Fault Refusal :=
  match decode s.port.cmd with
  | .error _ => .next (illegalCommand s.port.cmd s)
  | .ok i =>
    match s.half, readModifyWrite i s.port with
    | some before, some (f, v) => .next (writeBack i before f v s)
    | _, _ => exec i s

/-- The block's turn: a command to its outcome, the one it is inside (log 12) or the next. With no request to present the block
waits (70_reset R250), and a faulted block ignores every command (60_exceptions R227): nothing changes (DEDUCED, log 1). -/
def issue (s : State) : Host.Outcome State Fault Refusal :=
  if s.fault.set then .next s
  else if s.busy then finish s
  else
    match s.nextRequest with
    | some q => runRequest q s
    | none => .next s

/-- One event of the block: an idle one accepts the next request; inside a read-modify-write the read comes before the write; any
other command has at most one transaction, so that its next event brings it to its outcome. -/
def advance (s : State) : Host.Outcome State Fault Refusal :=
  if s.fault.set then .next s
  else if s.busy then
    match decode s.port.cmd with
    | .ok i => if s.half.isNone && (readModifyWrite i s.port).isSome then .next (readHalf i s) else finish s
    | .error _ => finish s
  else
    match s.nextRequest with
    | some q => .next (s.accept q)
    | none => .next s

/-! ## Reading a latch -/

/-- The value of a latch while its valid bit is 1 (10_state R25). -/
def State.latchValue (l : LatchId) (s : State) : Option LatchValue :=
  match l with
  | .rw => s.rw.read.map .word
  | .rt => s.rt.read.map .temp
  | .rn => s.rn.read.map .int
  | .rb => s.rb.read.map .bool

/-- A host read of a latch (60_exceptions R221): its value; or, while its valid bit is 0, nothing and the fault
ResultInvalid. While BUSY = 1 every valid bit is 0 (10_state R25), so that the read takes R224's entry: BUSY falls and the command
goes no further (DEDUCED, log 20). -/
def hostRead (l : LatchId) (s : State) : Option LatchValue × State :=
  match s.latchValue l with
  | some v => (some v, s)
  | none => (none, s.takeFault .resultInvalid { code := l.code, reg := none })

/-! ## The moves -/

/-- One move of the schedule. A reset abandons a command in flight: the events it completed stay, and a transaction in flight
leaves none (70_reset R252; DEDUCED, log 15). -/
def serve (x : Move) (s : State) : Host.Outcome State Fault Refusal :=
  match x with
  | .reset => .next s.applyReset
  | .readLatch l => .next { (hostRead l s).2 with hostData := (hostRead l s).1 }
  | .turn => issue s
  | .part => advance s

/-! ## The default-settings preset -/

/-- A request of command `i` with every operand port at zero, to be completed with the operands it reads. -/
def requestOf (i : Instr) : Request := { idleRequest with cmd := encode i }

/-- APPLYDEF (30_encoding R93, aliases R92): the seven requests the pseudo-command expands to, in order. -/
def applyDef (p : Params) : List Request :=
  [ { requestOf .setfSm with b := false }
  , { requestOf .setfCr with n := 250 }
  , { requestOf .setfIm with b := p.imComparator }
  , { requestOf .setfPol with b := p.polActiveLow }
  , { requestOf .setfCf with n := 1 }
  , { requestOf .setthLow with t := 75 }
  , { requestOf .setthHigh with t := 80 } ]

end Sys2Proof.Machine
end

