-- ==== Sys2Proof/Machine/Step.lean ====
section
/-! DEFINITION. One step of the machine: the next move of the schedule, or, with none left, the block's turn. -/

namespace Sys2Proof.Machine

/-- One step: the next move of the schedule (log 9); with none left, one command (10_state R27). -/
def step (s : State) : Host.Outcome State Fault Refusal :=
  match s.moves with
  | [] => issue s
  | x :: rest => serve x { s with moves := rest }

/-- The state with the command word `w` in the sequencer's list at pc, and the block able to accept it: no move scheduled,
BUSY = 0 and FAULT clear. The operands are those of the entry it replaces, or the sampled ports' where there was none. -/
def State.withFetchWord (s : State) (_nbits w : Nat) : State :=
  { s with
    prog := s.prog.take s.pc ++ List.replicate (s.pc - s.prog.length) idleRequest ++
      { (s.prog[s.pc]?).getD s.port with cmd := BitVec.ofNat 8 w } :: s.prog.drop (s.pc + 1)
    moves := []
    busy := false
    half := none
    fault := FaultReg.none }

end Sys2Proof.Machine
end

