-- ==== Sys2Proof/Machine/Assembler.lean ====
section
/-! DEFINITION. The assembler syntax the spec writes programs in, its aliases and its pseudo-command (30_encoding R91 to R93):
from one line of text to the requests the sequencer presents. A line is a list of characters. What R91 leaves open is
settled here (DESIGN CHOICE, log 18): strictly, but for the few more ways of writing a line that the log lists. -/

namespace Sys2Proof.Machine

/-- The commands in the order of 30_encoding R87. -/
def allCommands : List Instr :=
  [.dect, .enct, .c2f, .f2c, .pack, .unpack, .rdregTval, .rdregCfg, .rdregTlow, .rdregThigh,
    .wrregCfg, .wrregTlow, .wrregThigh, .rdtempC, .rdtempF, .getthLowC, .getthLowF, .getthHighC, .getthHighF,
    .setthLow, .setthHigh, .getfAl, .getfCr, .getfSm, .getfIm, .getfPol, .getfCf, .getfSs,
    .setfCr, .setfSm, .setfIm, .setfPol, .setfCf, .setfSs, .trigss]

/-- The pieces of a text between the occurrences of a character. -/
def splitAt (c : Char) : List Char → List (List Char)
  | [] => [[]]
  | x :: xs =>
    if x = c then [] :: splitAt c xs
    else
      match splitAt c xs with
      | [] => [[x]]
      | w :: ws => (x :: w) :: ws

/-- The words of a text, which spaces separate. -/
def wordsOf (cs : List Char) : List (List Char) := (splitAt ' ' cs).filter (fun w => !w.isEmpty)

/-- The value of a digit in base 10 or 16. -/
def digitValue (base : Nat) (c : Char) : Option Nat :=
  let v := if 48 ≤ c.toNat ∧ c.toNat ≤ 57 then c.toNat - 48
    else if 65 ≤ c.toNat ∧ c.toNat ≤ 70 then c.toNat - 55
    else if 97 ≤ c.toNat ∧ c.toNat ≤ 102 then c.toNat - 87
    else 16
  if v < base then some v else none

/-- The digits of a number read on from a value already read. -/
def readDigits (base : Nat) : Nat → List Char → Option Nat
  | n, [] => some n
  | n, c :: cs => (digitValue base c).bind fun v => readDigits base (n * base + v) cs

/-- A decimal number: one digit or more. -/
def readDecimal (cs : List Char) : Option Nat := if cs.isEmpty then none else readDigits 10 0 cs

/-- A natural number, decimal or hexadecimal after 0x (R91). -/
def readNat : List Char → Option Nat
  | '0' :: 'x' :: ds => if ds.isEmpty then none else readDigits 16 0 ds
  | ds => readDecimal ds

/-- An integer: a natural number with or without a minus sign (R91). -/
def readInt : List Char → Option Int
  | '-' :: ds => (readNat ds).map fun n => -(n : Int)
  | ds => (readNat ds).map fun n => (n : Int)

/-- The magnitude of a temperature: an integer, a decimal or a fraction (R91). -/
def readMagnitude (cs : List Char) : Option Temp :=
  match splitAt '/' cs, splitAt '.' cs with
  | [p, q], [_] =>
    match readDecimal p, readDecimal q with
    | some a, some b => if b = 0 then none else some ((a : Rat) / (b : Rat))
    | _, _ => none
  | [_], [p, d] =>
    match readDecimal p, readDecimal d with
    | some a, some b => some ((a : Rat) + (b : Rat) / (10 : Rat) ^ d.length)
    | _, _ => none
  | [_], [p] => (readDecimal p).map fun a => (a : Rat)
  | _, _ => none

/-- A temperature (R91). -/
def readTemp : List Char → Option Temp
  | '-' :: ds => (readMagnitude ds).map fun t => -t
  | ds => readMagnitude ds

/-- A natural number below a bound: an operand that must fit its port (30_encoding R90). -/
def readBelow (bound : Nat) (cs : List Char) : Option Nat := (readNat cs).filter fun n => decide (n < bound)

/-- The setting an alias names for a command (R92); nothing where the text is no alias of it. -/
def readAlias (p : Params) (i : Instr) (cs : List Char) : Option (Bool ⊕ Int) :=
  match i with
  | .setfSm => if cs = "OFF".toList then some (.inl false) else none
  | .setfCr => if cs = "250MS".toList then some (.inr 250) else none
  | .setfIm => if cs = "COMPARATOR".toList then some (.inl p.imComparator) else none
  | .setfPol => if cs = "ACTIVE_LOW".toList then some (.inl p.polActiveLow) else none
  | _ => none

/-- A Boolean operand: 0, 1 or an alias of the command (R91, R92). -/
def readBool (p : Params) (i : Instr) (cs : List Char) : Option Bool :=
  if cs = ['0'] then some false
  else if cs = ['1'] then some true
  else
    match readAlias p i cs with
    | some (.inl b) => some b
    | _ => none

/-- An integer operand: a number or an alias of the command (R91, R92). -/
def readN (p : Params) (i : Instr) (cs : List Char) : Option Int :=
  match readAlias p i cs with
  | some (.inr n) => some n
  | _ => readInt cs

/-- The name of an operand port in the text (R91). -/
def readPort (cs : List Char) : Option PortName :=
  if cs = "A".toList then some .a
  else if cs = "T".toList then some .t
  else if cs = "OFF".toList then some .off
  else if cs = "WID".toList then some .wid
  else if cs = "N".toList then some .n
  else if cs = "B".toList then some .b
  else none

/-- A value put on an operand port, read as that port's type (30_encoding R90). -/
def readOperand (p : Params) (i : Instr) (port : PortName) (cs : List Char) (q : Request) : Option Request :=
  match port with
  | .a => (readBelow 65536 cs).map fun v => { q with a := BitVec.ofNat 16 v }
  | .t => (readTemp cs).map fun v => { q with t := v }
  | .off => (readBelow 16 cs).map fun v => { q with off := BitVec.ofNat 4 v }
  | .wid => (readBelow 32 cs).map fun v => { q with wid := BitVec.ofNat 5 v }
  | .n => (readN p i cs).map fun v => { q with n := v }
  | .b => (readBool p i cs).map fun v => { q with b := v }

/-- The operands of a command, one name=value pair each, in the order of 30_encoding R87 and no others (R91). -/
def readOperands (p : Params) (i : Instr) : List PortName → List (List Char) → Request → Option Request
  | [], [], q => some q
  | port :: ports, pair :: pairs, q =>
    match splitAt '=' pair with
    | [name, value] =>
      if readPort name = some port then (readOperand p i port value q).bind (readOperands p i ports pairs) else none
    | _ => none
  | _, _, _ => none

/-- A command of the given name with the given operands; the operand ports it does not read are 0 (30_encoding R80). -/
def readCommandNamed (p : Params) (name : List Char) (pairs : List (List Char)) : Option (List Request) :=
  match allCommands.find? fun i => i.mnemonic.toList == name with
  | some i => (readOperands p i i.operands pairs (requestOf i)).map fun q => [q]
  | none => if name = "APPLYDEF".toList ∧ pairs = [] then some (applyDef p) else none

/-- One part of a line after the first comma: a single word. -/
def onePair (cs : List Char) : Option (List Char) :=
  match wordsOf cs with
  | [w] => some w
  | _ => none

/-- The pairs of a line after its first comma. -/
def restPairs : List (List Char) → Option (List (List Char))
  | [] => some []
  | c :: cs => (onePair c).bind fun w => (restPairs cs).map fun ws => w :: ws

/-- One line of assembly: a mnemonic, a plain register name where it is RDREG or WRREG, then the operands, with commas between
what follows the mnemonic; a semicolon begins a comment (R91). A comma straight after the mnemonic is no form of R91 and is
accepted (DESIGN CHOICE, log 18). APPLYDEF stands for its seven requests (R93). -/
def assembleLine (p : Params) (line : List Char) : Option (List Request) :=
  match splitAt ',' (line.takeWhile (fun c => c != ';')) with
  | [] => none
  | first :: rest =>
    match wordsOf first, restPairs rest with
    | [name], some pairs => readCommandNamed p name pairs
    | [name, second], some pairs =>
      if second.contains '=' then readCommandNamed p name (second :: pairs)
      else readCommandNamed p (name ++ ' ' :: second) pairs
    | _, _ => none

/-- A program: its lines in order (R91). -/
def assemble (p : Params) : List (List Char) → Option (List Request)
  | [] => some []
  | line :: lines => (assembleLine p line).bind fun qs => (assemble p lines).map fun rs => qs ++ rs

end Sys2Proof.Machine
end

