-- ==== Sys2Proof/Safety.lean ====
section
/-! DEFINITION. The terms claims use: the invariant, the end of a run, what is observed of it, and the states a command leaves
when it completes or faults, written out field by field. -/

namespace Sys2Proof.Machine

/-! ## The invariant -/

/-- An event the block can issue: it never writes TVAL (10_state R39). -/
def issuable : Event → Bool
  | .rd _ _ => true
  | .wr .tval _ => false
  | .wr _ _ => true

/-- FAULT is clear, or holds one of the six causes (60_exceptions R220). -/
abbrev FaultReg.wf (f : FaultReg) : Prop :=
  (f.set = false → f = FaultReg.none) ∧ (f.set = true → 1 ≤ f.cause.toNat ∧ f.cause.toNat ≤ 6)

/-- How many of the four latches are valid. -/
def State.validCount (s : State) : Nat := s.rw.valid.toNat + s.rt.valid.toNat + s.rn.valid.toNat + s.rb.valid.toNat

/-- Whether the block is inside a read-modify-write whose read is complete (log 12): the sampled command is one that has yet to
write, and CFGL holds the word of the last event, its read of CFG (10_state R43, 42_config_fields R190). -/
def State.halfway (s : State) : Bool :=
  match decode s.port.cmd with
  | .ok i => (readModifyWrite i s.port).isSome && writesAfter i s.cfgl && s.history.getLast? == some (.rd .cfg s.cfgl)
  | .error _ => false

/-- Between its acceptance and its outcome a command has no valid bit set (10_state R25), no fault (60_exceptions R224), and its
request is the list's entry at pc (10_state R27); an idle block is inside no command (R29). -/
abbrev State.busyInv (s : State) : Prop :=
  (s.busy = false → s.half = none) ∧
  (s.busy = true → s.fault.set = false ∧ s.validCount = 0 ∧ s.prog[s.pc]? = some s.port) ∧
  (s.half ≠ none → s.halfway = true)

/-- The invariant of the machine: `busyInv`; RN is below 2^16 (10_state R23); FAULT is well formed (60_exceptions R220); at most
one latch is valid (10_state R25); no latch is valid while a fault of a command stands (60_exceptions R224); TVAL is never written
(10_state R39); the index lies within the command list (R27). -/
abbrev State.Inv (s : State) : Prop :=
  s.busyInv ∧ s.rn.value < 65536 ∧ s.fault.wf ∧ s.validCount ≤ 1 ∧
  (s.fault.set = true → s.fault.cause ≠ 6 → s.validCount = 0) ∧
  s.history.all issuable = true ∧ s.pc ≤ s.prog.length

/-! ## The end of a run -/

/-- A final state (70_reset R262): the list is done, BUSY = 0 and FAULT.set = 0. -/
abbrev State.final (s : State) : Prop := s.pc = s.prog.length ∧ s.busy = false ∧ s.fault.set = false

/-- The register image under the store oracle; none under the normative oracle (20_memory R58, 70_reset R262). -/
def State.image (s : State) : Option Image :=
  match s.bank with
  | .store m0 => some { tval := storeWord m0 s.history .tval, cfg := storeWord m0 s.history .cfg,
                        tlow := storeWord m0 s.history .tlow, thigh := storeWord m0 s.history .thigh }
  | .oracle _ => none

/-- What is observed of a final state (70_reset R262): the result latches, the port history and, under the store oracle, the
register image. An invalid latch shows nothing. -/
structure Observation where
  rw : Option Word
  rt : Option Temp
  rn : Option Nat
  rb : Option Bool
  history : List Event
  image : Option Image
  deriving DecidableEq, Repr

/-- The observation of a state (70_reset R262). -/
def State.observe (s : State) : Observation :=
  { rw := s.rw.read, rt := s.rt.read, rn := s.rn.read, rb := s.rb.read, history := s.history, image := s.image }

/-! ## How a command leaves the machine -/

/-- The state a command leaves that completes Done after the port events `es`, before its result is put into a latch: every
valid bit 0, BUSY 0, the index advanced, the events appended, one answer of the bank used for each; all else as it was. That the
values of the invalid latches and CFGL stay is the model's choice (93_implementation_defined I11, I12; DESIGN CHOICE, logs 2
and 3). -/
def State.completed (es : List Event) (s : State) : State :=
  { s with
    rw := { s.rw with valid := false }, rt := { s.rt with valid := false }
    rn := { s.rn with valid := false }, rb := { s.rb with valid := false }
    busy := false, half := none, pc := s.pc + 1
    history := s.history ++ es, bank := s.bank.advance es.length, draws := s.draws + es.length }

/-- The state a command leaves that faults with cause code `c` and FAULT.info `code`, `reg` after the port events `es` and
`k` transactions attempted: every valid bit 0, BUSY 0, FAULT as entered unless it was set before; all else as it was,
the values of the invalid latches too (DESIGN CHOICE, log 2). -/
def State.faulted (c : BitVec 4) (code : Byte) (reg : Option (BitVec 2)) (es : List Event) (k : Nat) (s : State) : State :=
  { s with
    rw := { s.rw with valid := false }, rt := { s.rt with valid := false }
    rn := { s.rn with valid := false }, rb := { s.rb with valid := false }
    busy := false, half := none
    fault := if s.fault.set then s.fault else { set := true, cause := c, info := { code := code, reg := reg } }
    history := s.history ++ es, bank := s.bank.advance k, draws := s.draws + k }

/-- Command `i` with command word `cmd` is at `s` the read-modify-write of 42_config_fields R190: a failed read is
PortReadFault; otherwise the word written back has the bits `new` names and every other bit as read; a failed write is
PortWriteFault after the read's event, and a taken one completes with both events. That CFGL then keeps the word read is the
model's choice (DESIGN CHOICE, log 3). -/
abbrev readModifyWrites (i : Instr) (cmd : Byte) (new : Nat → Option Bool) (s : State) : Prop :=
  (s.portRead .cfg = none → exec i s = .next (s.faulted 4 cmd (some 1) [] 1)) ∧
  ∀ w, s.portRead .cfg = some w → ∃ w' : Word,
    (∀ j, j < 16 → w'.getLsbD j = (new j).getD (w.getLsbD j)) ∧
    ((s.completed [.rd .cfg w]).portAck .cfg w' = true →
      exec i s = .next { s.completed [.rd .cfg w, .wr .cfg w'] with cfgl := w }) ∧
    ((s.completed [.rd .cfg w]).portAck .cfg w' = false →
      exec i s = .next (s.faulted 5 cmd (some 1) [.rd .cfg w] 2))

/-- `q` is the truncation of `x` toward zero (00_scope R15), said without computing it. -/
abbrev truncates (x : Rat) (q : Int) : Prop :=
  (0 ≤ x → (q : Rat) ≤ x ∧ x < (q : Rat) + 1) ∧ (x < 0 → (q : Rat) - 1 < x ∧ x ≤ (q : Rat))

/-- The port transactions of a command in order (30_encoding R87, column 'port events'), each as whether it is a write, and
the register. -/
def portPattern : Instr → List (Bool × RegAddr)
  | .dect | .enct | .c2f | .f2c | .pack | .unpack => []
  | .rdregTval | .rdtempC | .rdtempF => [(false, .tval)]
  | .rdregCfg => [(false, .cfg)]
  | .rdregTlow | .getthLowC | .getthLowF => [(false, .tlow)]
  | .rdregThigh | .getthHighC | .getthHighF => [(false, .thigh)]
  | .wrregCfg => [(true, .cfg)]
  | .wrregTlow | .setthLow => [(true, .tlow)]
  | .wrregThigh | .setthHigh => [(true, .thigh)]
  | .getfAl | .getfCr | .getfSm | .getfIm | .getfPol | .getfCf | .getfSs => [(false, .cfg)]
  | .setfCr | .setfSm | .setfIm | .setfPol | .setfCf | .setfSs => [(false, .cfg), (true, .cfg)]
  | .trigss => [(false, .cfg), (true, .cfg)]

/-- The 35 command words of the opcode map, class by class (30_encoding R87). -/
def mapWords : List Byte :=
  [0x10, 0x11, 0x12, 0x13, 0x14, 0x15] ++ [0x20, 0x21, 0x22, 0x23] ++ [0x31, 0x32, 0x33] ++ [0x40, 0x41] ++
  [0x50, 0x51, 0x52, 0x53] ++ [0x60, 0x62] ++ [0x70, 0x71, 0x72, 0x73, 0x74, 0x75, 0x76] ++
  [0x81, 0x82, 0x83, 0x84, 0x85, 0x86] ++ [0x90]

/-- An event as whether it is a write, and its register. -/
def eventKind : Event → Bool × RegAddr
  | .rd r _ => (false, r)
  | .wr r _ => (true, r)

/-- Whether two requests carry the same value on an operand port (30_encoding R80). -/
def samePort (p q : Request) : PortName → Prop
  | .a => p.a = q.a
  | .t => p.t = q.t
  | .off => p.off = q.off
  | .wid => p.wid = q.wid
  | .n => p.n = q.n
  | .b => p.b = q.b

/-- The valid bit of a latch. -/
def State.validBit (l : LatchId) (s : State) : Bool :=
  match l with
  | .rw => s.rw.valid
  | .rt => s.rt.valid
  | .rn => s.rn.valid
  | .rb => s.rb.valid

end Sys2Proof.Machine
end

