-- ==== Sys2Proof/Certificates/Slice0/Obligations.lean ====
section
/-! DEFINITION. The statements for the provers, from the numbered rules of the spec. A statement that gives a command's next
state as an equation also says what the command leaves unchanged: every field not named is that of the state before. Such an
equation rests on two choices of the model beside the rules it cites: a latch the command did not write keeps its value, under
a valid bit of 0 (93_implementation_defined I11; DESIGN CHOICE, log 2), and CFGL keeps what it holds outside a read-modify-write
(I12; DESIGN CHOICE, log 3). -/

open Sys2Proof Sys2Proof.Machine

/-! ## Encoding -/

/-- Words written out bit by bit from 30_encoding R82 to R87, one and more of each class, and the named illegal forms of R88. -/
def Obligations.DecodeOfWordsOfTheMap : Prop :=
  decode 0b0001_0000#8 = .ok .dect ∧ decode 0b0001_0101#8 = .ok .unpack ∧
  decode 0b0010_0011#8 = .ok .rdregThigh ∧ decode 0b0011_0001#8 = .ok .wrregCfg ∧
  decode 0b0100_0001#8 = .ok .rdtempF ∧ decode 0b0101_0010#8 = .ok .getthHighC ∧
  decode 0b0110_0010#8 = .ok .setthHigh ∧ decode 0b0111_0101#8 = .ok .getfCf ∧
  decode 0b1000_0001#8 = .ok .setfCr ∧ decode 0b1001_0000#8 = .ok .trigss ∧
  decode 0b1000_0000#8 = .error .setAlertStatus ∧ decode 0b0011_0000#8 = .error .writeTemperature ∧
  decode 0b0110_0001#8 = .error .thresholdUnit ∧ decode 0b0110_0011#8 = .error .thresholdUnit ∧
  decode 0b0000_0000#8 = .error .gap

/-- Decoder and encoder agree in both directions: a word decodes to a command exactly when it is that command's word. -/
def Obligations.DecodeExactlyTheEncodedWord : Prop :=
  ∀ (cmd : Byte) (i : Instr), decode cmd = .ok i ↔ cmd = encode i

/-- 35 command words are legal and 221 are illegal (30_encoding R89). -/
def Obligations.LegalAndIllegalWordCounts : Prop :=
  ((List.range 256).filter fun n => (decode (BitVec.ofNat 8 n)).isOk).length = 35 ∧
  ((List.range 256).filter fun n => !(decode (BitVec.ofNat 8 n)).isOk).length = 221

/-! ## The sequencer's step -/

/-- A step of an idle block with no move scheduled samples the request at pc and runs the command it decodes to
(10_state R27, 30_encoding R80). -/
def Obligations.StepRunsTheDecodedCommand : Prop :=
  ∀ (s : State) (q : Request) (i : Instr),
    s.moves = [] → s.busy = false → s.fault.set = false → s.prog[s.pc]? = some q → decode q.cmd = .ok i →
      step s = exec i { s with port := q }

/-- Every command word outside the opcode map raises IllegalOperation before any other effect (30_encoding R88). -/
def Obligations.IllegalCommandFaultsBeforeAnyEffect : Prop :=
  ∀ (s : State) (q : Request),
    s.moves = [] → s.busy = false → s.fault.set = false → s.prog[s.pc]? = some q →
    q.cmd ∉ mapWords →
      step s = .next ({ s with port := q }.faulted 1 q.cmd none [] 0)

/-- The sequencer's index advances by exactly 1 when a command completes Done and does not advance on a fault, whether the block
takes up the command at pc in this step or is inside it; with no command left nothing changes (10_state R27; that a waiting
block's step changes nothing is the model's reading, DEDUCED, log 1). -/
def Obligations.IndexAdvancesOnDoneOnly : Prop :=
  ∀ (s t : State), s.moves = [] → s.fault.set = false → step s = .next t →
    (s.pc < s.prog.length ∨ s.busy = true → t.fault.set = false → t.pc = s.pc + 1) ∧
    (s.pc < s.prog.length ∨ s.busy = true → t.fault.set = true → t.pc = s.pc) ∧
    (s.prog.length ≤ s.pc → s.busy = false → t = s)

/-- From every state, an idle one, one inside a command or a faulted one, a step answers a next state: no operation stops the
machine (00_scope R18, 70_reset R261). With no move scheduled that state is idle, so that no command hangs. That waiting and faulted
states have a next state is the model's reading (DEDUCED, log 1); that every transaction returns is the spec's assumption
(log 16). -/
def Obligations.StepAlwaysAnswers : Prop :=
  ∀ s : State, ∃ t, step s = .next t ∧ (s.moves = [] → s.busy = false ∨ s.fault.set = false → t.busy = false)

/-- A block inside a command none of whose transactions is made runs it to its outcome, and an illegal word to its fault
(10_state R29, 30_encoding R80, R88): BUSY = 1 stops nothing. Where the block may be met inside a command is the model's choice
(log 12). -/
def Obligations.BusyBlockFinishesItsCommand : Prop :=
  ∀ s : State, s.moves = [] → s.busy = true → s.fault.set = false → s.half = none →
    (∀ i, decode s.port.cmd = .ok i → step s = exec i s) ∧
    (s.port.cmd ∉ mapWords → step s = .next (s.faulted 1 s.port.cmd none [] 0))

/-- A block inside a read-modify-write whose read is complete writes the word computed from CFGL, the word read, whatever the
register bank did in between (10_state R43, 20_memory R64): every bit but the command's own is written as it was read, AL and SS
among them (70_reset R255, R256), and TRIGSS sets SS in a word whose SM is 1 (R257). A failed write is PortWriteFault and leaves
CFGL as before the command (60_exceptions R224). Where the block may be met inside a command, and what CFGL holds after it is
Done, is the model's choice (logs 12 and 3). -/
def Obligations.HalfwaySetterWritesFromCfgl : Prop :=
  ∀ (i : Instr) (cmd : Byte) (new : Nat → Option Bool) (s : State) (before : Word),
    (∃ b, (i, cmd, b) ∈ [(.setfSm, 0x82, 8), (.setfIm, 0x83, 9), (.setfPol, 0x84, 10), (.setfSs, 0x86, 15)] ∧
      new = fun j => if j = b then some s.port.b else none) ∨
    (i = .trigss ∧ cmd = 0x90 ∧ s.cfgl.getLsbD 8 = true ∧ new = fun j => if j = 15 then some true else none) ∨
    (∃ hi lo, i = .setfCr ∧ cmd = 0x81 ∧
      (s.port.n, hi, lo) ∈ [(4000, false, false), (1000, false, true), (250, true, false), (125, true, true)] ∧
      new = fun j => if j = 6 then some lo else if j = 7 then some hi else none) ∨
    (∃ hi lo, i = .setfCf ∧ cmd = 0x85 ∧
      (s.port.n, hi, lo) ∈ [(1, false, false), (2, false, true), (3, true, false), (4, true, true)] ∧
      new = fun j => if j = 11 then some lo else if j = 12 then some hi else none) →
    s.moves = [] → s.busy = true → s.fault.set = false → s.half = some before → s.port.cmd = cmd →
    ∃ w' : Word, (∀ j, j < 16 → w'.getLsbD j = (new j).getD (s.cfgl.getLsbD j)) ∧
      (s.portAck .cfg w' = true →
        step s = .next { s with busy := false, half := none, pc := s.pc + 1, history := s.history ++ [.wr .cfg w']
                                bank := s.bank.advance 1, draws := s.draws + 1 }) ∧
      (s.portAck .cfg w' = false →
        step s = .next { s with busy := false, half := none, cfgl := before, bank := s.bank.advance 1, draws := s.draws + 1
                                fault := { set := true, cause := 5, info := { code := cmd, reg := some 1 } } })

/-- A command accepted in one move and run in the next, or taken one event at a time, comes to the state of the whole command
(10_state R29, 20_memory R62, R64). The first move samples the request, clears the valid bits, sets BUSY and makes no
transaction; the second either brings the command to its outcome or, in a read-modify-write, makes the read alone, and then the
third, of either kind, brings it to its outcome. The two kinds of move, and that an invalid latch keeps its value, are the
model's choice (logs 9, 12 and 2). -/
def Obligations.PartsMakeUpTheCommand : Prop :=
  ∀ (s : State) (q : Request) (i : Instr) (m : Move) (rest : List Move), m = .turn ∨ m = .part →
    s.busy = false → s.fault.set = false → s.prog[s.pc]? = some q → decode q.cmd = .ok i →
    (s.moves = .part :: rest →
      step s = .next { s with moves := rest, port := q, busy := true, half := none
                              rw := { s.rw with valid := false }, rt := { s.rt with valid := false }
                              rn := { s.rn with valid := false }, rb := { s.rb with valid := false } }) ∧
    (s.moves = .part :: .turn :: rest → core.run 2 s = exec i { s with moves := rest, port := q }) ∧
    (s.moves = .part :: .part :: m :: rest →
      core.run 2 s = exec i { s with moves := m :: rest, port := q } ∨
      (∃ u w, core.run 2 s = .next u ∧ s.portRead .cfg = some w ∧ portPattern i = [(false, .cfg), (true, .cfg)] ∧
        u.busy = true ∧ u.half = some s.cfgl ∧ u.cfgl = w ∧ u.history = s.history ++ [.rd .cfg w] ∧ u.validCount = 0 ∧
        core.run 3 s = exec i { s with moves := rest, port := q }))

/-- A final state waits (the model's reading, DEDUCED, log 1), and a state with FAULT.set = 1 is never final (70_reset R262). -/
def Obligations.FinalStatesWaitAndFaultIsNeverFinal : Prop :=
  (∀ s : State, s.final → s.moves = [] → step s = .next s) ∧ (∀ s : State, s.fault.set = true → ¬ s.final)

/-- No step changes the integration parameters, DEV_ADDR among them (10_state R45, 00_scope R10), or the command list
(10_state R27; 20_memory R66: the block has no instruction memory). That they stand in the state is the model's choice (log 14),
and that a reset keeps the list is its reading (DEDUCED, log 13). -/
def Obligations.StepKeepsParametersAndCommandList : Prop :=
  ∀ s t : State, step s = .next t → t.params = s.params ∧ t.prog = s.prog

/-- The port history only grows (20_memory R62, R68). That a reset keeps it is the model's reading (DEDUCED, log 13). -/
def Obligations.StepOnlyAppendsToTheHistory : Prop :=
  ∀ s t : State, step s = .next t → s.history <+: t.history

/-! ## Codec commands -/

/-- DECT (40_codec R100): on the unsigned reading r of A, r/128 below 32768 and -(r-1)/128 from 32768 on. That a latch left
invalid keeps its value is the model's choice (DESIGN CHOICE, log 2). -/
def Obligations.DectDecodesTheRawWord : Prop :=
  decode 0x10 = .ok .dect ∧ ∀ s : State,
    (s.port.a.toNat < 32768 →
      exec .dect s = .next { s.completed [] with rt := { value := (s.port.a.toNat : Rat) / 128, valid := true } }) ∧
    (32768 ≤ s.port.a.toNat →
      exec .dect s = .next { s.completed [] with rt := { value := -((s.port.a.toNat : Rat) - 1) / 128, valid := true } })

/-- DECT's values (40_codec R107): the set, 65536 distinct values, none strictly between -32767/128 and 0, and strictly
decreasing on the upper half. -/
def Obligations.DectValueSetAndOrder : Prop :=
  (∀ x : Temp, (∃ w, decodeTemp w = x) ↔
    ∃ n : Int, x = (n : Rat) / 128 ∧ (0 ≤ n ∧ n ≤ 32767 ∨ -65534 ≤ n ∧ n ≤ -32767)) ∧
  (∀ v w : Word, decodeTemp v = decodeTemp w → v = w) ∧
  (∀ w : Word, ¬ (-32767 / 128 < decodeTemp w ∧ decodeTemp w < 0)) ∧
  (∀ v w : Word, 32768 ≤ v.toNat → v.toNat < w.toNat → decodeTemp w < decodeTemp v)

/-- DECT is not two's-complement decoding (40_codec R106): from 32768 on it exceeds that reading by 65537 - 2r LSB, and the two
lie within one LSB only at 0x8000 and 0x8001; at 0xFF38 they are -65335/128 and -200/128. -/
def Obligations.DectIsNotTwosComplement : Prop :=
  (∀ w : Word, 32768 ≤ w.toNat →
    decodeTemp w * 128 - (w.toInt : Rat) = 65537 - 2 * (w.toNat : Rat) ∧
    (|decodeTemp w * 128 - (w.toInt : Rat)| ≤ 1 ↔ w = 0x8000#16 ∨ w = 0x8001#16)) ∧
  decodeTemp 0xFF38#16 = -65335 / 128 ∧ (0xFF38#16).toInt = -200

/-- ENCT (40_codec R101): the truncation q of T*128 toward zero, in two's complement, where it fits 16 bits; EncodeRange where
it does not. That a latch left invalid keeps its value is the model's choice (DESIGN CHOICE, log 2). -/
def Obligations.EnctTruncatesOrFaults : Prop :=
  decode 0x11 = .ok .enct ∧ ∀ (s : State) (q : Int), truncates (s.port.t * 128) q →
    (-32768 ≤ q → q ≤ 32767 →
      exec .enct s = .next { s.completed [] with rw := { value := BitVec.ofInt 16 q, valid := true } }) ∧
    (q < -32768 ∨ 32767 < q → exec .enct s = .next (s.faulted 3 0x11 none [] 0))

/-- The round trips of 40_codec R109: ENCT of DECT's result, word by word, and DECT of ENCT's result. That a latch left invalid
keeps its value is the model's choice (DESIGN CHOICE, log 2). -/
def Obligations.EnctAfterDectRoundTrip : Prop :=
  (∀ (s : State) (r : Word), s.port.t = decodeTemp r →
    (r.toNat ≤ 32767 → exec .enct s = .next { s.completed [] with rw := { value := r, valid := true } }) ∧
    (r = 0x8000#16 → exec .enct s = .next { s.completed [] with rw := { value := 0x8001#16, valid := true } }) ∧
    (r = 0x8001#16 → exec .enct s = .next { s.completed [] with rw := { value := 0x8000#16, valid := true } }) ∧
    (32770 ≤ r.toNat → exec .enct s = .next (s.faulted 3 0x11 none [] 0))) ∧
  (∀ (t : Temp) (w : Word), encodeTemp t = some w →
    (∀ k : Nat, k ≤ 32767 → t = (k : Rat) / 128 → decodeTemp w = t) ∧ (t < 0 → decodeTemp w ≠ t))

/-- C2F and F2C (40_codec R102, R103): the exact formulas in the reference instantiation, where each undoes the other, and the
implementation's own function of the operand otherwise; neither ever faults. That the implementation's functions are opaque
constants of the operand, and that an invalid latch keeps its value, is the model's choice (DESIGN CHOICE, logs 6 and 2). -/
def Obligations.FahrenheitConversions : Prop :=
  decode 0x12 = .ok .c2f ∧ decode 0x13 = .ok .f2c ∧ ∀ s : State,
    (s.params.numerics = .reference →
      exec .c2f s = .next { s.completed [] with rt := { value := s.port.t * 9 / 5 + 32, valid := true } } ∧
      exec .f2c s = .next { s.completed [] with rt := { value := (s.port.t - 32) * 5 / 9, valid := true } } ∧
      (∀ t, exec .c2f s = .next t → ∃ u, exec .f2c { t with port := { t.port with t := t.rt.value } } = .next u ∧
        u.rt = { value := s.port.t, valid := true }) ∧
      (∀ t, exec .f2c s = .next t → ∃ u, exec .c2f { t with port := { t.port with t := t.rt.value } } = .next u ∧
        u.rt = { value := s.port.t, valid := true })) ∧
    (s.params.numerics = .implementation →
      exec .c2f s = .next { s.completed [] with rt := { value := Config.c2fNum s.port.t, valid := true } } ∧
      exec .f2c s = .next { s.completed [] with rt := { value := Config.f2cNum s.port.t, valid := true } })

/-- PACK (40_codec R104): the bits of the field come from N's two's-complement form, every other bit from A; PackRange where the
field is empty or leaves bits 15:0. That a latch left invalid keeps its value is the model's choice (DESIGN CHOICE, log 2). -/
def Obligations.PackReplacesOneField : Prop :=
  decode 0x14 = .ok .pack ∧ ∀ s : State,
    (1 ≤ s.port.wid.toNat → s.port.off.toNat + s.port.wid.toNat ≤ 16 → ∃ w : Word,
      exec .pack s = .next { s.completed [] with rw := { value := w, valid := true } } ∧
      ∀ j, j < 16 → w.getLsbD j =
        if s.port.off.toNat ≤ j ∧ j < s.port.off.toNat + s.port.wid.toNat
        then (BitVec.ofInt 16 s.port.n).getLsbD (j - s.port.off.toNat) else s.port.a.getLsbD j) ∧
    (s.port.wid.toNat = 0 ∨ 16 < s.port.off.toNat + s.port.wid.toNat →
      exec .pack s = .next (s.faulted 2 0x14 none [] 0))

/-- UNPACK (40_codec R105): the field, zero-extended; PackRange as for PACK. That a latch left invalid keeps its value is the
model's choice (DESIGN CHOICE, log 2). -/
def Obligations.UnpackExtractsOneField : Prop :=
  decode 0x15 = .ok .unpack ∧ ∀ s : State,
    (1 ≤ s.port.wid.toNat → s.port.off.toNat + s.port.wid.toNat ≤ 16 →
      exec .unpack s = .next { s.completed [] with
        rn := { value := s.port.a.toNat / 2 ^ s.port.off.toNat % 2 ^ s.port.wid.toNat, valid := true } }) ∧
    (s.port.wid.toNat = 0 ∨ 16 < s.port.off.toNat + s.port.wid.toNat →
      exec .unpack s = .next (s.faulted 2 0x15 none [] 0))

/-- The pack and unpack laws (40_codec R110), for every legal offset and width. -/
def Obligations.PackUnpackLaws : Prop :=
  ∀ (w : Word) (f : Field) (v : Nat), 1 ≤ f.wid → f.off + f.wid ≤ 16 → v < 2 ^ f.wid →
    unpackField (packField w f v) f = v ∧
    (∀ j, j < 16 → (j < f.off ∨ f.off + f.wid ≤ j) → (packField w f v).getLsbD j = w.getLsbD j) ∧
    packField w f (unpackField w f) = w

/-! ## Register-port commands -/

/-- RDREG (41_register_port R130 to R133): RW takes the word read and the history its event; a failed or short read is
PortReadFault with the register's address. That a latch left invalid keeps its value is the model's choice (DESIGN CHOICE, log
2). -/
def Obligations.RdregReadsARegister : Prop :=
  ∀ (i : Instr) (r : RegAddr) (cmd : Byte) (reg : BitVec 2),
    (i, r, cmd, reg) ∈ [(.rdregTval, .tval, 0x20, 0), (.rdregCfg, .cfg, 0x21, 1), (.rdregTlow, .tlow, 0x22, 2),
      (.rdregThigh, .thigh, 0x23, 3)] →
    decode cmd = .ok i ∧ ∀ s : State,
      (∀ w, s.portRead r = some w →
        exec i s = .next { s.completed [.rd r w] with rw := { value := w, valid := true } }) ∧
      (s.portRead r = none → exec i s = .next (s.faulted 4 cmd (some reg) [] 1))

/-- WRREG (41_register_port R134 to R136): the whole word A is written with no read before it; a failed write is PortWriteFault
and no event. That a latch left invalid keeps its value is the model's choice (DESIGN CHOICE, log 2). -/
def Obligations.WrregWritesARegister : Prop :=
  ∀ (i : Instr) (r : RegAddr) (cmd : Byte) (reg : BitVec 2),
    (i, r, cmd, reg) ∈ [(.wrregCfg, .cfg, 0x31, 1), (.wrregTlow, .tlow, 0x32, 2), (.wrregThigh, .thigh, 0x33, 3)] →
    decode cmd = .ok i ∧ ∀ s : State,
      (s.portAck r s.port.a = true → exec i s = .next (s.completed [.wr r s.port.a])) ∧
      (s.portAck r s.port.a = false → exec i s = .next (s.faulted 5 cmd (some reg) [] 1))

/-- RDTEMP and GETTH (41_register_port R137 to R142): one read, decoded as DECT does, through C2F_NUM for the Fahrenheit forms;
a failed read is PortReadFault. That a latch left invalid keeps its value is the model's choice (DESIGN CHOICE, log 2). -/
def Obligations.TemperatureAndThresholdReads : Prop :=
  ∀ (i : Instr) (r : RegAddr) (fahrenheit : Bool) (cmd : Byte) (reg : BitVec 2),
    (i, r, fahrenheit, cmd, reg) ∈ [(.rdtempC, .tval, false, 0x40, 0), (.rdtempF, .tval, true, 0x41, 0),
      (.getthLowC, .tlow, false, 0x50, 2), (.getthLowF, .tlow, true, 0x51, 2),
      (.getthHighC, .thigh, false, 0x52, 3), (.getthHighF, .thigh, true, 0x53, 3)] →
    decode cmd = .ok i ∧ ∀ s : State,
      (∀ w, s.portRead r = some w →
        exec i s = .next { s.completed [.rd r w] with
          rt := { value := if fahrenheit then s.params.numerics.toFahrenheit (decodeTemp w) else decodeTemp w
                  valid := true } }) ∧
      (s.portRead r = none → exec i s = .next (s.faulted 4 cmd (some reg) [] 1))

/-- SETTH (41_register_port R143, R144): T is encoded first, and EncodeRange comes before any port traffic whatever the
transport would answer (60_exceptions R222); then one write. That a latch left invalid keeps its value is the model's choice
(DESIGN CHOICE, log 2). -/
def Obligations.ThresholdWritesEncodeFirst : Prop :=
  ∀ (i : Instr) (r : RegAddr) (cmd : Byte) (reg : BitVec 2),
    (i, r, cmd, reg) ∈ [(.setthLow, .tlow, 0x60, 2), (.setthHigh, .thigh, 0x62, 3)] →
    decode cmd = .ok i ∧ ∀ (s : State) (q : Int), truncates (s.port.t * 128) q →
      (q < -32768 ∨ 32767 < q → exec i s = .next (s.faulted 3 cmd none [] 0)) ∧
      (-32768 ≤ q → q ≤ 32767 → s.portAck r (BitVec.ofInt 16 q) = true →
        exec i s = .next (s.completed [.wr r (BitVec.ofInt 16 q)])) ∧
      (-32768 ≤ q → q ≤ 32767 → s.portAck r (BitVec.ofInt 16 q) = false →
        exec i s = .next (s.faulted 5 cmd (some reg) [] 1))

/-- A read composes its two bytes most significant first, and a short read or a transport failure is PortReadFault with no latch
valid, never a value (20_memory R53, R56; 70_reset R258): every command whose first transaction is a read, of every register.
The two discarding setters count where they discard nothing. The list of answers is the model's choice (log 10). -/
def Obligations.ReadsComposeBytesOrFault : Prop :=
  ∀ (i : Instr) (r : RegAddr) (reg : BitVec 2) (s : State) (a : PortAnswer) (rest : List PortAnswer),
    (r, reg) ∈ [(.tval, 0), (.cfg, 1), (.tlow, 2), (.thigh, 3)] →
    (portPattern i).head? = some (false, r) → (i = .setfCr → s.port.n ∈ [4000, 1000, 250, 125]) →
    (i = .setfCf → 1 ≤ s.port.n ∧ s.port.n ≤ 4) → s.bank = .oracle (a :: rest) →
    (∀ b0 b1 : Byte, a.read = .bytes b0 b1 → ∃ t w, exec i s = .next t ∧ w.toNat = b0.toNat * 256 + b1.toNat ∧
      s.portRead r = some w ∧ s.history ++ [.rd r w] <+: t.history ∧
      (i ∈ [.rdregTval, .rdregCfg, .rdregTlow, .rdregThigh] →
        t.rw = { value := w, valid := true } ∧ t.bank = .oracle rest)) ∧
    ((∃ b0, a.read = .short b0) ∨ a.read = .failed → ∃ t, exec i s = .next t ∧
      t.fault = (if s.fault.set then s.fault
        else { set := true, cause := 4, info := { code := encode i, reg := some reg } }) ∧
      t.validCount = 0 ∧ t.history = s.history ∧ t.bank = .oracle rest ∧ t.pc = s.pc)

/-- What the block's completed transactions put on the bus (20_memory R53 to R55, 00_scope R10), for every command and every
register: for a read, the register-select byte and a read of two bytes, for a write, one frame of the register and the two
bytes, all to DEV_ADDR, the most significant byte first, in the order of the command's port events. The bus trace holds
completed transactions only; what a failed or short one puts on the bus the spec does not say, and that the trace leaves it out
is the model's choice (DESIGN CHOICE, log 21). -/
def Obligations.BusFramesAreMsbFirst : Prop :=
  ∀ (i : Instr) (s t : State), exec i s = .next t →
    ∃ (es : List Event) (fs : List Frame) (r : RegAddr) (sel : Byte) (w w' : Word) (hi lo hi' lo' : Byte),
      t.history = s.history ++ es ∧ t.busTrace = s.busTrace ++ fs ∧
      (r, sel) ∈ [(.tval, 0x00), (.cfg, 0x01), (.tlow, 0x02), (.thigh, 0x03)] ∧
      w.toNat = hi.toNat * 256 + lo.toNat ∧ w'.toNat = hi'.toNat * 256 + lo'.toNat ∧
      ((es = [] ∧ fs = []) ∨
       (es = [.rd r w] ∧ fs = [.write s.params.devAddr [sel], .read s.params.devAddr [hi, lo]]) ∨
       (es = [.wr r w] ∧ fs = [.write s.params.devAddr [sel, hi, lo]]) ∨
       (es = [.rd r w, .wr r w'] ∧ fs = [.write s.params.devAddr [sel], .read s.params.devAddr [hi, lo],
         .write s.params.devAddr [sel, hi', lo']]))

/-! ## Configuration-field commands -/

/-- GETF.AL, SM, IM, POL and SS (42_config_fields R170, R172 to R174, R176): RB is the field's bit of the word read. That a
latch left invalid keeps its value is the model's choice (DESIGN CHOICE, log 2). -/
def Obligations.GetfReadsOneBit : Prop :=
  ∀ (i : Instr) (bit : Nat) (cmd : Byte),
    (i, bit, cmd) ∈ [(.getfAl, 5, 0x70), (.getfSm, 8, 0x72), (.getfIm, 9, 0x73), (.getfPol, 10, 0x74),
      (.getfSs, 15, 0x76)] →
    decode cmd = .ok i ∧ ∀ s : State,
      (∀ w, s.portRead .cfg = some w →
        exec i s = .next { s.completed [.rd .cfg w] with rb := { value := w.getLsbD bit, valid := true } }) ∧
      (s.portRead .cfg = none → exec i s = .next (s.faulted 4 cmd (some 1) [] 1))

/-- GETF.CR (42_config_fields R171): codes 0 to 3 of bits 7:6 read as 4000, 1000, 250 and 125 ms; the mapping gives 0 for any
other code. That a latch left invalid keeps its value is the model's choice (DESIGN CHOICE, log 2). -/
def Obligations.GetfCrReadsMilliseconds : Prop :=
  decode 0x71 = .ok .getfCr ∧ (∀ c, 4 ≤ c → cycleTimeMs c = 0) ∧ ∀ s : State,
    (∀ w, s.portRead .cfg = some w →
      exec .getfCr s = .next { s.completed [.rd .cfg w] with
        rn := { value := if w.getLsbD 7 then (if w.getLsbD 6 then 125 else 250) else (if w.getLsbD 6 then 1000 else 4000)
                valid := true } }) ∧
    (s.portRead .cfg = none → exec .getfCr s = .next (s.faulted 4 0x71 (some 1) [] 1))

/-- GETF.CF (42_config_fields R175): RN is the code of bits 12:11 plus 1, always 1 to 4. That a latch left invalid keeps its
value is the model's choice (DESIGN CHOICE, log 2). -/
def Obligations.GetfCfReadsTheCount : Prop :=
  decode 0x75 = .ok .getfCf ∧ ∀ s : State,
    (∀ w, s.portRead .cfg = some w →
      exec .getfCf s = .next { s.completed [.rd .cfg w] with
        rn := { value := 2 * (w.getLsbD 12).toNat + (w.getLsbD 11).toNat + 1, valid := true } }) ∧
    (s.portRead .cfg = none → exec .getfCf s = .next (s.faulted 4 0x75 (some 1) [] 1))

/-- SETF.SM, IM, POL and SS (42_config_fields R190, R193 to R196, R198): a read-modify-write that sets the field's bit to B and
keeps every other bit. What CFGL holds afterwards, and that an invalid latch keeps its value, is the model's choice (DESIGN
CHOICE, logs 3 and 2). -/
def Obligations.SetfWritesOneBit : Prop :=
  ∀ (i : Instr) (bit : Nat) (cmd : Byte),
    (i, bit, cmd) ∈ [(.setfSm, 8, 0x82), (.setfIm, 9, 0x83), (.setfPol, 10, 0x84), (.setfSs, 15, 0x86)] →
    decode cmd = .ok i ∧ ∀ s : State, readModifyWrites i cmd (fun j => if j = bit then some s.port.b else none) s

/-- SETF.CR (42_config_fields R191): 4000, 1000, 250 and 125 ms store codes 0 to 3 in bits 7:6; any other N is discarded with no
port traffic and no signal. What CFGL holds afterwards, and that an invalid latch keeps its value, is the model's choice (DESIGN
CHOICE, logs 3 and 2). -/
def Obligations.SetfCrStoresTheCodeOrDiscards : Prop :=
  decode 0x81 = .ok .setfCr ∧ ∀ s : State,
    (s.port.n ∉ [4000, 1000, 250, 125] → exec .setfCr s = .next (s.completed [])) ∧
    (∀ (n : Int) (hi lo : Bool),
      (n, hi, lo) ∈ [(4000, false, false), (1000, false, true), (250, true, false), (125, true, true)] → s.port.n = n →
        readModifyWrites .setfCr 0x81 (fun j => if j = 6 then some lo else if j = 7 then some hi else none) s)

/-- SETF.CF (42_config_fields R192): counts 1 to 4 store N - 1 in bits 12:11; any other N is discarded with no port traffic and
no signal. What CFGL holds afterwards, and that an invalid latch keeps its value, is the model's choice (DESIGN CHOICE, logs 3
and 2). -/
def Obligations.SetfCfStoresTheCountOrDiscards : Prop :=
  decode 0x85 = .ok .setfCf ∧ ∀ s : State,
    (s.port.n < 1 ∨ 4 < s.port.n → exec .setfCf s = .next (s.completed [])) ∧
    (∀ (n : Int) (hi lo : Bool),
      (n, hi, lo) ∈ [(1, false, false), (2, false, true), (3, true, false), (4, true, true)] → s.port.n = n →
        readModifyWrites .setfCf 0x85 (fun j => if j = 11 then some lo else if j = 12 then some hi else none) s)

/-- TRIGSS (42_config_fields R199): one read; with SM = 0 nothing more; with SM = 1 the word read is written back with bit 15
set, whatever it held. What CFGL holds afterwards, and that an invalid latch keeps its value, is the model's choice (DESIGN
CHOICE, logs 3 and 2). -/
def Obligations.TrigssWritesOnlyInSleepMode : Prop :=
  decode 0x90 = .ok .trigss ∧ ∀ s : State,
    (s.portRead .cfg = none → exec .trigss s = .next (s.faulted 4 0x90 (some 1) [] 1)) ∧
    (∀ w, s.portRead .cfg = some w → w.getLsbD 8 = false →
      exec .trigss s = .next { s.completed [.rd .cfg w] with cfgl := w }) ∧
    (∀ w, s.portRead .cfg = some w → w.getLsbD 8 = true →
      (s.completed [.rd .cfg w]).portAck .cfg (w ||| 0x8000#16) = true →
        exec .trigss s = .next { s.completed [.rd .cfg w, .wr .cfg (w ||| 0x8000#16)] with cfgl := w }) ∧
    (∀ w, s.portRead .cfg = some w → w.getLsbD 8 = true →
      (s.completed [.rd .cfg w]).portAck .cfg (w ||| 0x8000#16) = false →
        exec .trigss s = .next (s.faulted 5 0x90 (some 1) [.rd .cfg w] 2))

/-- AL and the unassigned bits are written by WRREG CFG alone: any other command that writes CFG has just read it and writes
these bits back as read (10_state R31, R38). -/
def Obligations.OnlyWrregChangesAlAndUnassignedBits : Prop :=
  ∀ (i : Instr) (s t : State) (es : List Event) (w' : Word), i ≠ .wrregCfg → exec i s = .next t →
    t.history = s.history ++ es → Event.wr .cfg w' ∈ es →
    ∃ w, es = [.rd .cfg w, .wr .cfg w'] ∧ ∀ j ∈ [0, 1, 2, 3, 4, 5, 13, 14], w'.getLsbD j = w.getLsbD j

/-- Under the store oracle, with no write to CFG in between, a getter returns what its setter was given
(42_config_fields R197). -/
def Obligations.SetterIsReadBackUnderTheStoreOracle : Prop :=
  ∀ (m0 : Image) (s t u : State) (es : List Event), s.bank = .store m0 → u.bank = t.bank →
    u.history = t.history ++ es → (∀ w, Event.wr .cfg w ∉ es) →
    (∀ set get : Instr, (set, get) ∈ [(.setfSm, .getfSm), (.setfIm, .getfIm), (.setfPol, .getfPol), (.setfSs, .getfSs)] →
      exec set s = .next t → ∃ v, exec get u = .next v ∧ v.rb = { value := s.port.b, valid := true }) ∧
    (s.port.n ∈ [4000, 1000, 250, 125] → exec .setfCr s = .next t →
      ∃ v, exec .getfCr u = .next v ∧ v.rn = { value := s.port.n.toNat, valid := true }) ∧
    (1 ≤ s.port.n → s.port.n ≤ 4 → exec .setfCf s = .next t →
      ∃ v, exec .getfCf u = .next v ∧ v.rn = { value := s.port.n.toNat, valid := true })

/-! ## All commands -/

/-- A command completes Done, with the index advanced and FAULT as it was, or faults precisely: FAULT set with a cause 1 to 5 and
the command's word, every valid bit 0, the index unmoved (00_scope R18, 10_state R27, 60_exceptions R224). That CFGL and the values
of the invalid latches are then as before the command is the model's choice (logs 2 and 3). -/
def Obligations.CommandsCompleteOrFaultPrecisely : Prop :=
  ∀ (i : Instr) (s : State), s.fault.set = false → ∃ t, exec i s = .next t ∧ t.busy = false ∧
    ((t.fault = s.fault ∧ t.pc = s.pc + 1) ∨
     (t.fault.set = true ∧ 1 ≤ t.fault.cause.toNat ∧ t.fault.cause.toNat ≤ 5 ∧ t.fault.info.code = encode i ∧
      t.validCount = 0 ∧ t.rw.value = s.rw.value ∧ t.rt.value = s.rt.value ∧ t.rn.value = s.rn.value ∧
      t.rb.value = s.rb.value ∧ t.cfgl = s.cfgl ∧ t.pc = s.pc ∧ t.port = s.port ∧ s.history <+: t.history))

/-- A latch is valid after a command only if it is the command's result, and the result's latch is valid when the command
completes (10_state R25, 30_encoding R87). -/
def Obligations.OnlyTheResultLatchIsValid : Prop :=
  ∀ (i : Instr) (s t : State), exec i s = .next t →
    (∀ l, t.validBit l = true → i.result = some l) ∧
    (t.pc = s.pc + 1 → ∀ l, i.result = some l → t.validBit l = true)

/-- The port events a command appends are those of the opcode map, in order, cut short by a fault and by nothing else, but that a
setter whose value has no code completes with none and TRIGSS awake with its read alone (30_encoding R87; 42_config_fields R191,
R192, R199). -/
def Obligations.PortEventsFollowTheOpcodeMap : Prop :=
  ∀ (i : Instr) (s t : State), exec i s = .next t →
    ∃ es, t.history = s.history ++ es ∧ es.map eventKind <+: portPattern i ∧
      (t.pc = s.pc + 1 →
        es.map eventKind = portPattern i ∨
        (i = .setfCr ∧ s.port.n ∉ [4000, 1000, 250, 125] ∧ es = []) ∨
        (i = .setfCf ∧ (s.port.n < 1 ∨ 4 < s.port.n) ∧ es = []) ∨
        (i = .trigss ∧ ∃ w, es = [.rd .cfg w] ∧ w.getLsbD 8 = false))

/-- Operand ports a command does not read are ignored (30_encoding R80). -/
def Obligations.UnreadOperandPortsAreIgnored : Prop :=
  ∀ (i : Instr) (s t : State) (q : Request), (∀ p ∈ i.operands, samePort s.port q p) →
    exec i s = .next t → exec i { s with port := q } = .next { t with port := q }

/-- No command's result depends on a latch an earlier command wrote: the result latches and CFGL (10_state R20, R43). -/
def Obligations.ResultsDoNotDependOnLatches : Prop :=
  ∀ (i : Instr) (s t t' : State) (rw : Latch Word) (rt : Latch Temp) (rn : Latch Nat) (rb : Latch Bool) (c : Word),
    exec i s = .next t → exec i { s with rw := rw, rt := rt, rn := rn, rb := rb, cfgl := c } = .next t' →
    t'.rw.read = t.rw.read ∧ t'.rt.read = t.rt.read ∧ t'.rn.read = t.rn.read ∧ t'.rb.read = t.rb.read ∧
    t'.fault = t.fault ∧ t'.history = t.history ∧ t'.bank = t.bank ∧ t'.draws = t.draws ∧ t'.pc = t.pc ∧ t'.busy = t.busy

/-- The store oracle is one of the normative oracles: whatever a command does under it, it does under some list of answers
(00_scope R13, 20_memory R58). The list of answers is the model's choice (log 10). -/
def Obligations.StoreOracleIsANormativeOracle : Prop :=
  ∀ (i : Instr) (s t : State) (m0 : Image), s.bank = .store m0 → exec i s = .next t →
    ∃ answers rest, exec i { s with bank := .oracle answers } = .next { t with bank := .oracle rest }

/-- Under the store oracle a command leaves every register's word as it was, but for the last word it writes (20_memory R58). -/
def Obligations.StoreImageChangesOnlyWhereWritten : Prop :=
  ∀ (i : Instr) (s t : State) (m0 : Image) (r : RegAddr), s.bank = .store m0 → exec i s = .next t →
    t.bank = .store m0 ∧
    (storeWord m0 t.history r = storeWord m0 s.history r ∨
     ∃ w, (true, r) ∈ portPattern i ∧ t.history.getLast? = some (.wr r w) ∧ storeWord m0 t.history r = w)

/-! ## Faults, the host and reset -/

/-- A faulted block ignores commands, a host read does not overwrite the fault, and only reset clears it
(60_exceptions R224, R227). That such a step changes nothing at all is the model's reading (DEDUCED, log 1). -/
def Obligations.FirstFaultStaysUntilReset : Prop :=
  (∀ s : State, s.fault.set = true → s.moves = [] → step s = .next s) ∧
  (∀ s t : State, s.fault.set = true → step s = .next t → t.fault = s.fault ∨ ∃ rest, s.moves = .reset :: rest)

/-- A host read of a latch (60_exceptions R221): the value while the valid bit is 1; nothing and ResultInvalid with the latch's
number, entered as R224 says, while it is 0. That the entry ends a command the block is inside is the model's reading (DEDUCED,
log 20). -/
def Obligations.HostReadOfALatch : Prop :=
  ∀ (l : LatchId) (code : Byte), (l, code) ∈ [(.rw, 0), (.rt, 1), (.rn, 2), (.rb, 3)] →
    ∀ (s : State) (rest : List Move), s.moves = .readLatch l :: rest →
      (s.validBit l = true → ∃ v, step s = .next { s with moves := rest, hostData := some v } ∧
        (l = .rw → v = .word s.rw.value) ∧ (l = .rt → v = .temp s.rt.value) ∧
        (l = .rn → v = .int s.rn.value) ∧ (l = .rb → v = .bool s.rb.value)) ∧
      (s.validBit l = false → step s = .next { s with
        moves := rest, hostData := none, busy := false, half := none
        fault := if s.fault.set then s.fault else { set := true, cause := 6, info := { code := code, reg := none } } })

/-- The host reads what a command computed (00_scope R6, 10_state R25, 60_exceptions R221): the block's turn and a read of the
command's result latch, one after the other in the schedule, give the host the value the command put there, and the rest of the
state is as the command left it. The schedule is the model's choice (log 9). -/
def Obligations.HostReadsTheResultOfACommand : Prop :=
  ∀ (s t : State) (q : Request) (i : Instr) (l : LatchId) (rest : List Move),
    s.moves = .turn :: .readLatch l :: rest → s.busy = false → s.fault.set = false → s.prog[s.pc]? = some q →
    decode q.cmd = .ok i → i.result = some l → exec i { s with moves := rest, port := q } = .next t → t.fault.set = false →
      ∃ v, core.run 2 s = .next { t with hostData := some v } ∧
        (l = .rw → v = .word t.rw.value) ∧ (l = .rt → v = .temp t.rt.value) ∧
        (l = .rn → v = .int t.rn.value) ∧ (l = .rb → v = .bool t.rb.value)

/-- The values the spec gives the block after reset (70_reset R250). -/
def Obligations.ResetStateOfTheBlock : Prop :=
  State.reset.busy = false ∧ State.reset.fault = { set := false, cause := 0, info := { code := 0, reg := none } } ∧
  State.reset.rw.valid = false ∧ State.reset.rt.valid = false ∧ State.reset.rn.valid = false ∧
  State.reset.rb.valid = false ∧ State.reset.pc = 0 ∧ State.reset.history = []

/-- Reset asserted between commands or inside one (70_reset R250 to R252): the block's state is as after reset; the parameters and
the register bank stay. That the history, the list, the schedule's rest and the host's last reading stay too is DEDUCED
(log 13). -/
def Obligations.ResetInputRestoresTheBlock : Prop :=
  ∀ (s : State) (rest : List Move), s.moves = .reset :: rest →
    ∃ t, step s = .next t ∧ t.busy = false ∧ t.half = none ∧
      t.fault = { set := false, cause := 0, info := { code := 0, reg := none } } ∧
      t.validCount = 0 ∧ t.pc = 0 ∧ t.moves = rest ∧ t.params = s.params ∧ t.bank = s.bank ∧
      t.history = s.history ∧ t.prog = s.prog ∧ t.hostData = s.hostData

/-- Reset asserted during a command (70_reset R252), after its acceptance and `k` of its events: those of the port events the
command would have completed stay, it is abandoned and the block is as after reset; a setter abandoned after its read has written
nothing. Where the model places such a reset is its reading (DEDUCED, log 15). -/
def Obligations.ResetDuringACommandAbandonsIt : Prop :=
  ∀ (s t : State) (q : Request) (i : Instr) (k : Nat) (rest : List Move), k ≤ 2 →
    s.moves = List.replicate (k + 1) .part ++ .reset :: rest → s.busy = false → s.fault.set = false →
    s.prog[s.pc]? = some q → decode q.cmd = .ok i → exec i { s with moves := rest, port := q } = .next t →
    ∃ u es, core.run (k + 2) s = .next u ∧ t.history = s.history ++ es ∧ u.history = s.history ++ es.take k ∧
      u.busy = false ∧ u.half = none ∧ u.fault = { set := false, cause := 0, info := { code := 0, reg := none } } ∧
      u.validCount = 0 ∧ u.pc = 0 ∧ u.params = s.params ∧ u.prog = s.prog ∧ u.moves = rest ∧
      (i ∈ [.setfCr, .setfSm, .setfIm, .setfPol, .setfCf, .setfSs, .trigss] → k ≤ 1 →
        ∀ r w, Event.wr r w ∉ u.history.drop s.history.length)

/-! ## Invariant and preset -/

/-- The state at the start of a run has the invariant. -/
def Obligations.ResetStateHasTheInvariant : Prop := State.reset.Inv

/-- Every step keeps the invariant, in whatever order the agents move: an idle block is inside no command; a block inside one has
FAULT clear, no latch valid and the request at pc sampled; past the read of a read-modify-write CFGL holds the word of the last
event; RN is below 2^16, FAULT is well formed, at most one latch is valid and none under a command's fault, TVAL is never
written, and the index stays within the list. Where a block is met inside a command is the model's choice (log 12). -/
def Obligations.StepKeepsTheInvariant : Prop :=
  ∀ s t : State, s.Inv → step s = .next t → t.Inv

/-- APPLYDEF under the store oracle (42_config_fields R201, R200): from every state that accepts commands and has the preset's
seven requests at pc, seven steps complete with the twelve port events in order, CFG, TLOW and THIGH hold the preset's
values with CFG's other bits kept, and the getters return what the preset set. -/
def Obligations.PresetUnderTheStoreOracle : Prop :=
  ∀ (m0 : Image) (s : State) (before after : List Request),
    s.bank = .store m0 → s.moves = [] → s.busy = false → s.fault.set = false →
    s.prog = before ++ applyDef s.params ++ after → s.pc = before.length →
    ∃ t c1 c2 c3 c4 c5 c0, core.run 7 s = .next t ∧ c0 = storeWord m0 s.history .cfg ∧
      t.pc = s.pc + 7 ∧ t.fault = s.fault ∧ t.busy = false ∧ t.validCount = 0 ∧
      t.history = s.history ++ [.rd .cfg c0, .wr .cfg c1, .rd .cfg c1, .wr .cfg c2, .rd .cfg c2, .wr .cfg c3,
        .rd .cfg c3, .wr .cfg c4, .rd .cfg c4, .wr .cfg c5, .wr .tlow 0x2580#16, .wr .thigh 0x2800#16] ∧
      storeWord m0 t.history .cfg = (c0 &&& 0xE03F#16) ||| 0x0080#16 |||
        (if s.params.imComparator then 0x0200#16 else 0) ||| (if s.params.polActiveLow then 0x0400#16 else 0) ∧
      storeWord m0 t.history .tlow = 0x2580#16 ∧ storeWord m0 t.history .thigh = 0x2800#16 ∧
      (∃ v, exec .getfSm t = .next v ∧ v.rb = { value := false, valid := true }) ∧
      (∃ v, exec .getfCr t = .next v ∧ v.rn = { value := 250, valid := true }) ∧
      (∃ v, exec .getfIm t = .next v ∧ v.rb = { value := s.params.imComparator, valid := true }) ∧
      (∃ v, exec .getfPol t = .next v ∧ v.rb = { value := s.params.polActiveLow, valid := true }) ∧
      (∃ v, exec .getfCf t = .next v ∧ v.rn = { value := 1, valid := true }) ∧
      (∃ v, exec .getthLowC t = .next v ∧ v.rt = { value := 75, valid := true }) ∧
      (∃ v, exec .getthHighC t = .next v ∧ v.rt = { value := 80, valid := true })

/-- The aliases and the pseudo-command of the assembler (30_encoding R92, R93): the preset's seven lines as the spec writes them,
and the one line APPLYDEF, stand for the same seven requests in that order. -/
def Obligations.AliasesNameThePreset : Prop :=
  ∀ p : Params,
    assemble p ["SETF.SM  B=OFF".toList, "SETF.CR  N=250MS".toList, "SETF.IM  B=COMPARATOR".toList,
      "SETF.POL B=ACTIVE_LOW".toList, "SETF.CF  N=1".toList, "SETTH.LOW  T=75".toList, "SETTH.HIGH T=80".toList] =
        some (applyDef p) ∧
    assembleLine p "APPLYDEF".toList = some (applyDef p) ∧
    (applyDef p).map (fun q => q.cmd) = [0x82, 0x81, 0x83, 0x84, 0x85, 0x60, 0x62] ∧
    (applyDef p)[0]?.map (fun q => q.b) = some false ∧ (applyDef p)[1]?.map (fun q => q.n) = some 250 ∧
    (applyDef p)[2]?.map (fun q => q.b) = some p.imComparator ∧ (applyDef p)[3]?.map (fun q => q.b) = some p.polActiveLow ∧
    (applyDef p)[4]?.map (fun q => q.n) = some 1 ∧ (applyDef p)[5]?.map (fun q => q.t) = some 75 ∧
    (applyDef p)[6]?.map (fun q => q.t) = some 80
end

