-- ==== Sys2Proof/Laws/Bits.lean ====
section
/-! SUPPORT. The bits of a packed word and of an unpacked field, and the bounds of the codec's functions. -/

namespace Sys2Proof

/-- A bit of a field's mask is set exactly inside the field. -/
theorem fieldMask_getLsbD (f : Field) (h : f.wf) (i : Nat) :
    (fieldMask f).getLsbD i = (decide (f.off ≤ i) && decide (i < f.off + f.wid)) := by
  obtain ⟨h1, h2⟩ := h
  simp only [fieldMask, BitVec.getLsbD_shiftLeft, BitVec.getLsbD_ofNat, Nat.testBit_two_pow_sub_one]
  by_cases a : f.off ≤ i <;> by_cases b : i < f.off + f.wid <;> simp [a, b] <;> omega

/-- The low `k` bits of an integer, as a word: those of its 16-bit two's-complement form. -/
theorem ofInt_emod_toNat (v : Int) (k : Nat) (h : k ≤ 16) :
    (BitVec.ofInt 16 (v % 2 ^ k)).toNat = (BitVec.ofInt 16 v).toNat % 2 ^ k := by
  have h0 : 0 ≤ v % 2 ^ k := Int.emod_nonneg _ (by positivity)
  have h1 : v % 2 ^ k < 2 ^ k := Int.emod_lt_of_pos _ (by positivity)
  have h2 : (2 : Int) ^ k ≤ 2 ^ 16 := pow_le_pow_right₀ (by norm_num) h
  have h3 : (2 : Int) ^ k ∣ 2 ^ 16 := pow_dvd_pow 2 h
  have e : v % 2 ^ 16 % 2 ^ k = v % 2 ^ k := Int.emod_emod_of_dvd v h3
  have e2 : v % 2 ^ k % 2 ^ 16 = v % 2 ^ k := Int.emod_eq_of_lt h0 (by omega)
  zify
  simp only [BitVec.toNat_ofInt]
  push_cast
  rw [Int.toNat_of_nonneg (Int.emod_nonneg _ (by norm_num)), Int.toNat_of_nonneg (Int.emod_nonneg _ (by norm_num))]
  norm_num at *
  rw [e, e2]

theorem ofInt_emod_getLsbD (v : Int) (k i : Nat) (h : k ≤ 16) :
    (BitVec.ofInt 16 (v % 2 ^ k)).getLsbD i = (decide (i < k) && (BitVec.ofInt 16 v).getLsbD i) := by
  simp only [BitVec.getLsbD, ofInt_emod_toNat v k h, Nat.testBit_mod_two_pow]

/-- The bits of a packed word: inside the field those of the value, outside it those of the word (40_codec R104). -/
theorem packField_getLsbD (w : Word) (f : Field) (v : Int) (h : f.wf) (i : Nat) (hi : i < 16) :
    (packField w f v).getLsbD i =
      if f.off ≤ i ∧ i < f.off + f.wid then (BitVec.ofInt 16 v).getLsbD (i - f.off) else w.getLsbD i := by
  have h2 := h.2
  simp only [packField, BitVec.getLsbD_or, BitVec.getLsbD_and, BitVec.getLsbD_not, BitVec.getLsbD_shiftLeft,
    fieldMask_getLsbD f h, ofInt_emod_getLsbD v f.wid _ (by omega)]
  by_cases a : f.off ≤ i
  · have c : i - f.off < f.wid ↔ i < f.off + f.wid := by omega
    by_cases b : i < f.off + f.wid <;> simp [a, b, c, hi]
  · simp [a, hi]

/-- The bits of an unpacked field (40_codec R105). -/
theorem unpackField_testBit (w : Word) (f : Field) (i : Nat) :
    (unpackField w f).testBit i = (decide (i < f.wid) && w.getLsbD (f.off + i)) := by
  simp [unpackField, Nat.testBit_mod_two_pow, BitVec.getLsbD, ← Nat.shiftRight_eq_div_pow, Nat.testBit_shiftRight]

/-- A single-bit field read as a Boolean is the bit (42_config_fields R170). -/
theorem unpackBool_eq (w : Word) (f : ConfigField) (h : f.field.wid = 1) : unpackBool w f = w.getLsbD f.field.off := by
  have e := unpackField_testBit w f.field 0
  have l : unpackField w f.field < 2 := by
    simp only [unpackField, h]; omega
  simp only [h, Nat.testBit_zero, Nat.add_zero] at e
  rw [unpackBool, ← (by simpa using e : decide (unpackField w f.field % 2 = 1) = w.getLsbD f.field.off)]
  rw [Nat.mod_eq_of_lt l, Bool.eq_iff_iff]
  simp

/-- An unpacked field lies below 2 to its width. -/
theorem unpackField_lt (w : Word) (f : Field) : unpackField w f < 2 ^ f.wid := Nat.mod_lt _ (by positivity)

/-- RN's values fit 16 bits: an unpacked field of a legal width, a cycle time, a fault count (10_state R23). -/
theorem unpackField_lt_wordSize (w : Word) (f : Field) : unpackField w f < 65536 :=
  lt_of_le_of_lt ((Nat.mod_le _ _).trans (Nat.div_le_self _ _)) w.isLt

theorem cycleTimeMs_lt_wordSize (c : Nat) : cycleTimeMs c < 65536 := by
  unfold cycleTimeMs; split <;> omega

@[simp] theorem ConfigField.field_al : ConfigField.al.field = { off := 5, wid := 1 } := rfl
@[simp] theorem ConfigField.field_cr : ConfigField.cr.field = { off := 6, wid := 2 } := rfl
@[simp] theorem ConfigField.field_sm : ConfigField.sm.field = { off := 8, wid := 1 } := rfl
@[simp] theorem ConfigField.field_im : ConfigField.im.field = { off := 9, wid := 1 } := rfl
@[simp] theorem ConfigField.field_pol : ConfigField.pol.field = { off := 10, wid := 1 } := rfl
@[simp] theorem ConfigField.field_cf : ConfigField.cf.field = { off := 11, wid := 2 } := rfl
@[simp] theorem ConfigField.field_ss : ConfigField.ss.field = { off := 15, wid := 1 } := rfl

/-- Every field of the configuration word is legal (10_state R30). -/
theorem ConfigField.field_wf (f : ConfigField) : f.field.wf := by cases f <;> decide

/-- No two fields of the configuration word share a bit (10_state R30). -/
theorem ConfigField.field_disjoint (f g : ConfigField) (h : f ≠ g) : f.field.disjoint g.field := by
  revert h; cases f <;> cases g <;> decide

end Sys2Proof
end

