-- ==== Sys2Proof/Laws/State.lean ====
section
/-! SUPPORT. One lemma per field per update of the state, each true by rfl, so that no proof unfolds an update. -/

namespace Sys2Proof.Machine

variable (s : State)

@[simp] theorem State.clearValid_rw : s.clearValid.rw = s.rw.invalid := rfl
@[simp] theorem State.clearValid_rt : s.clearValid.rt = s.rt.invalid := rfl
@[simp] theorem State.clearValid_rn : s.clearValid.rn = s.rn.invalid := rfl
@[simp] theorem State.clearValid_rb : s.clearValid.rb = s.rb.invalid := rfl
@[simp] theorem State.clearValid_fault : s.clearValid.fault = s.fault := rfl
@[simp] theorem State.clearValid_busy : s.clearValid.busy = s.busy := rfl
@[simp] theorem State.clearValid_half : s.clearValid.half = s.half := rfl
@[simp] theorem State.clearValid_cfgl : s.clearValid.cfgl = s.cfgl := rfl
@[simp] theorem State.clearValid_params : s.clearValid.params = s.params := rfl
@[simp] theorem State.clearValid_port : s.clearValid.port = s.port := rfl
@[simp] theorem State.clearValid_prog : s.clearValid.prog = s.prog := rfl
@[simp] theorem State.clearValid_pc : s.clearValid.pc = s.pc := rfl
@[simp] theorem State.clearValid_moves : s.clearValid.moves = s.moves := rfl
@[simp] theorem State.clearValid_hostData : s.clearValid.hostData = s.hostData := rfl
@[simp] theorem State.clearValid_history : s.clearValid.history = s.history := rfl
@[simp] theorem State.clearValid_bank : s.clearValid.bank = s.bank := rfl
@[simp] theorem State.clearValid_draws : s.clearValid.draws = s.draws := rfl

@[simp] theorem State.start_rw : s.start.rw = s.rw.invalid := rfl
@[simp] theorem State.start_rt : s.start.rt = s.rt.invalid := rfl
@[simp] theorem State.start_rn : s.start.rn = s.rn.invalid := rfl
@[simp] theorem State.start_rb : s.start.rb = s.rb.invalid := rfl
@[simp] theorem State.start_fault : s.start.fault = s.fault := rfl
@[simp] theorem State.start_busy : s.start.busy = true := rfl
@[simp] theorem State.start_half : s.start.half = none := rfl
@[simp] theorem State.start_cfgl : s.start.cfgl = s.cfgl := rfl
@[simp] theorem State.start_params : s.start.params = s.params := rfl
@[simp] theorem State.start_port : s.start.port = s.port := rfl
@[simp] theorem State.start_prog : s.start.prog = s.prog := rfl
@[simp] theorem State.start_pc : s.start.pc = s.pc := rfl
@[simp] theorem State.start_moves : s.start.moves = s.moves := rfl
@[simp] theorem State.start_hostData : s.start.hostData = s.hostData := rfl
@[simp] theorem State.start_history : s.start.history = s.history := rfl
@[simp] theorem State.start_bank : s.start.bank = s.bank := rfl
@[simp] theorem State.start_draws : s.start.draws = s.draws := rfl

@[simp] theorem State.done_rw : s.done.rw = s.rw := rfl
@[simp] theorem State.done_rt : s.done.rt = s.rt := rfl
@[simp] theorem State.done_rn : s.done.rn = s.rn := rfl
@[simp] theorem State.done_rb : s.done.rb = s.rb := rfl
@[simp] theorem State.done_fault : s.done.fault = s.fault := rfl
@[simp] theorem State.done_busy : s.done.busy = false := rfl
@[simp] theorem State.done_half : s.done.half = none := rfl
@[simp] theorem State.done_cfgl : s.done.cfgl = s.cfgl := rfl
@[simp] theorem State.done_params : s.done.params = s.params := rfl
@[simp] theorem State.done_port : s.done.port = s.port := rfl
@[simp] theorem State.done_prog : s.done.prog = s.prog := rfl
@[simp] theorem State.done_pc : s.done.pc = s.pc + 1 := rfl
@[simp] theorem State.done_moves : s.done.moves = s.moves := rfl
@[simp] theorem State.done_hostData : s.done.hostData = s.hostData := rfl
@[simp] theorem State.done_history : s.done.history = s.history := rfl
@[simp] theorem State.done_bank : s.done.bank = s.bank := rfl
@[simp] theorem State.done_draws : s.done.draws = s.draws := rfl

@[simp] theorem State.setRW_rw (v : Word) : (s.setRW v).rw = Latch.written v := rfl
@[simp] theorem State.setRW_rt (v : Word) : (s.setRW v).rt = s.rt := rfl
@[simp] theorem State.setRW_rn (v : Word) : (s.setRW v).rn = s.rn := rfl
@[simp] theorem State.setRW_rb (v : Word) : (s.setRW v).rb = s.rb := rfl
@[simp] theorem State.setRW_fault (v : Word) : (s.setRW v).fault = s.fault := rfl
@[simp] theorem State.setRW_busy (v : Word) : (s.setRW v).busy = s.busy := rfl
@[simp] theorem State.setRW_half (v : Word) : (s.setRW v).half = s.half := rfl
@[simp] theorem State.setRW_cfgl (v : Word) : (s.setRW v).cfgl = s.cfgl := rfl
@[simp] theorem State.setRW_params (v : Word) : (s.setRW v).params = s.params := rfl
@[simp] theorem State.setRW_port (v : Word) : (s.setRW v).port = s.port := rfl
@[simp] theorem State.setRW_prog (v : Word) : (s.setRW v).prog = s.prog := rfl
@[simp] theorem State.setRW_pc (v : Word) : (s.setRW v).pc = s.pc := rfl
@[simp] theorem State.setRW_moves (v : Word) : (s.setRW v).moves = s.moves := rfl
@[simp] theorem State.setRW_hostData (v : Word) : (s.setRW v).hostData = s.hostData := rfl
@[simp] theorem State.setRW_history (v : Word) : (s.setRW v).history = s.history := rfl
@[simp] theorem State.setRW_bank (v : Word) : (s.setRW v).bank = s.bank := rfl
@[simp] theorem State.setRW_draws (v : Word) : (s.setRW v).draws = s.draws := rfl

@[simp] theorem State.setRT_rw (v : Temp) : (s.setRT v).rw = s.rw := rfl
@[simp] theorem State.setRT_rt (v : Temp) : (s.setRT v).rt = Latch.written v := rfl
@[simp] theorem State.setRT_rn (v : Temp) : (s.setRT v).rn = s.rn := rfl
@[simp] theorem State.setRT_rb (v : Temp) : (s.setRT v).rb = s.rb := rfl
@[simp] theorem State.setRT_fault (v : Temp) : (s.setRT v).fault = s.fault := rfl
@[simp] theorem State.setRT_busy (v : Temp) : (s.setRT v).busy = s.busy := rfl
@[simp] theorem State.setRT_half (v : Temp) : (s.setRT v).half = s.half := rfl
@[simp] theorem State.setRT_cfgl (v : Temp) : (s.setRT v).cfgl = s.cfgl := rfl
@[simp] theorem State.setRT_params (v : Temp) : (s.setRT v).params = s.params := rfl
@[simp] theorem State.setRT_port (v : Temp) : (s.setRT v).port = s.port := rfl
@[simp] theorem State.setRT_prog (v : Temp) : (s.setRT v).prog = s.prog := rfl
@[simp] theorem State.setRT_pc (v : Temp) : (s.setRT v).pc = s.pc := rfl
@[simp] theorem State.setRT_moves (v : Temp) : (s.setRT v).moves = s.moves := rfl
@[simp] theorem State.setRT_hostData (v : Temp) : (s.setRT v).hostData = s.hostData := rfl
@[simp] theorem State.setRT_history (v : Temp) : (s.setRT v).history = s.history := rfl
@[simp] theorem State.setRT_bank (v : Temp) : (s.setRT v).bank = s.bank := rfl
@[simp] theorem State.setRT_draws (v : Temp) : (s.setRT v).draws = s.draws := rfl

@[simp] theorem State.setRN_rw (v : Nat) : (s.setRN v).rw = s.rw := rfl
@[simp] theorem State.setRN_rt (v : Nat) : (s.setRN v).rt = s.rt := rfl
@[simp] theorem State.setRN_rn (v : Nat) : (s.setRN v).rn = Latch.written v := rfl
@[simp] theorem State.setRN_rb (v : Nat) : (s.setRN v).rb = s.rb := rfl
@[simp] theorem State.setRN_fault (v : Nat) : (s.setRN v).fault = s.fault := rfl
@[simp] theorem State.setRN_busy (v : Nat) : (s.setRN v).busy = s.busy := rfl
@[simp] theorem State.setRN_half (v : Nat) : (s.setRN v).half = s.half := rfl
@[simp] theorem State.setRN_cfgl (v : Nat) : (s.setRN v).cfgl = s.cfgl := rfl
@[simp] theorem State.setRN_params (v : Nat) : (s.setRN v).params = s.params := rfl
@[simp] theorem State.setRN_port (v : Nat) : (s.setRN v).port = s.port := rfl
@[simp] theorem State.setRN_prog (v : Nat) : (s.setRN v).prog = s.prog := rfl
@[simp] theorem State.setRN_pc (v : Nat) : (s.setRN v).pc = s.pc := rfl
@[simp] theorem State.setRN_moves (v : Nat) : (s.setRN v).moves = s.moves := rfl
@[simp] theorem State.setRN_hostData (v : Nat) : (s.setRN v).hostData = s.hostData := rfl
@[simp] theorem State.setRN_history (v : Nat) : (s.setRN v).history = s.history := rfl
@[simp] theorem State.setRN_bank (v : Nat) : (s.setRN v).bank = s.bank := rfl
@[simp] theorem State.setRN_draws (v : Nat) : (s.setRN v).draws = s.draws := rfl

@[simp] theorem State.setRB_rw (v : Bool) : (s.setRB v).rw = s.rw := rfl
@[simp] theorem State.setRB_rt (v : Bool) : (s.setRB v).rt = s.rt := rfl
@[simp] theorem State.setRB_rn (v : Bool) : (s.setRB v).rn = s.rn := rfl
@[simp] theorem State.setRB_rb (v : Bool) : (s.setRB v).rb = Latch.written v := rfl
@[simp] theorem State.setRB_fault (v : Bool) : (s.setRB v).fault = s.fault := rfl
@[simp] theorem State.setRB_busy (v : Bool) : (s.setRB v).busy = s.busy := rfl
@[simp] theorem State.setRB_half (v : Bool) : (s.setRB v).half = s.half := rfl
@[simp] theorem State.setRB_cfgl (v : Bool) : (s.setRB v).cfgl = s.cfgl := rfl
@[simp] theorem State.setRB_params (v : Bool) : (s.setRB v).params = s.params := rfl
@[simp] theorem State.setRB_port (v : Bool) : (s.setRB v).port = s.port := rfl
@[simp] theorem State.setRB_prog (v : Bool) : (s.setRB v).prog = s.prog := rfl
@[simp] theorem State.setRB_pc (v : Bool) : (s.setRB v).pc = s.pc := rfl
@[simp] theorem State.setRB_moves (v : Bool) : (s.setRB v).moves = s.moves := rfl
@[simp] theorem State.setRB_hostData (v : Bool) : (s.setRB v).hostData = s.hostData := rfl
@[simp] theorem State.setRB_history (v : Bool) : (s.setRB v).history = s.history := rfl
@[simp] theorem State.setRB_bank (v : Bool) : (s.setRB v).bank = s.bank := rfl
@[simp] theorem State.setRB_draws (v : Bool) : (s.setRB v).draws = s.draws := rfl

@[simp] theorem State.takeFault_rw (c : Cause) (info : FaultInfo) : (s.takeFault c info).rw = s.rw := rfl
@[simp] theorem State.takeFault_rt (c : Cause) (info : FaultInfo) : (s.takeFault c info).rt = s.rt := rfl
@[simp] theorem State.takeFault_rn (c : Cause) (info : FaultInfo) : (s.takeFault c info).rn = s.rn := rfl
@[simp] theorem State.takeFault_rb (c : Cause) (info : FaultInfo) : (s.takeFault c info).rb = s.rb := rfl
@[simp] theorem State.takeFault_fault (c : Cause) (info : FaultInfo) : (s.takeFault c info).fault = s.fault.record c info := rfl
@[simp] theorem State.takeFault_busy (c : Cause) (info : FaultInfo) : (s.takeFault c info).busy = false := rfl
@[simp] theorem State.takeFault_half (c : Cause) (info : FaultInfo) : (s.takeFault c info).half = none := rfl
@[simp] theorem State.takeFault_cfgl (c : Cause) (info : FaultInfo) : (s.takeFault c info).cfgl = s.cfgl := rfl
@[simp] theorem State.takeFault_params (c : Cause) (info : FaultInfo) : (s.takeFault c info).params = s.params := rfl
@[simp] theorem State.takeFault_port (c : Cause) (info : FaultInfo) : (s.takeFault c info).port = s.port := rfl
@[simp] theorem State.takeFault_prog (c : Cause) (info : FaultInfo) : (s.takeFault c info).prog = s.prog := rfl
@[simp] theorem State.takeFault_pc (c : Cause) (info : FaultInfo) : (s.takeFault c info).pc = s.pc := rfl
@[simp] theorem State.takeFault_moves (c : Cause) (info : FaultInfo) : (s.takeFault c info).moves = s.moves := rfl
@[simp] theorem State.takeFault_hostData (c : Cause) (info : FaultInfo) : (s.takeFault c info).hostData = s.hostData := rfl
@[simp] theorem State.takeFault_history (c : Cause) (info : FaultInfo) : (s.takeFault c info).history = s.history := rfl
@[simp] theorem State.takeFault_bank (c : Cause) (info : FaultInfo) : (s.takeFault c info).bank = s.bank := rfl
@[simp] theorem State.takeFault_draws (c : Cause) (info : FaultInfo) : (s.takeFault c info).draws = s.draws := rfl

@[simp] theorem State.commandFault_rw (i : Instr) (c : Cause) : (s.commandFault i c).rw = s.rw := rfl
@[simp] theorem State.commandFault_rt (i : Instr) (c : Cause) : (s.commandFault i c).rt = s.rt := rfl
@[simp] theorem State.commandFault_rn (i : Instr) (c : Cause) : (s.commandFault i c).rn = s.rn := rfl
@[simp] theorem State.commandFault_rb (i : Instr) (c : Cause) : (s.commandFault i c).rb = s.rb := rfl
@[simp] theorem State.commandFault_fault (i : Instr) (c : Cause) : (s.commandFault i c).fault = s.fault.record c { code := encode i, reg := none } := rfl
@[simp] theorem State.commandFault_busy (i : Instr) (c : Cause) : (s.commandFault i c).busy = false := rfl
@[simp] theorem State.commandFault_half (i : Instr) (c : Cause) : (s.commandFault i c).half = none := rfl
@[simp] theorem State.commandFault_cfgl (i : Instr) (c : Cause) : (s.commandFault i c).cfgl = s.cfgl := rfl
@[simp] theorem State.commandFault_params (i : Instr) (c : Cause) : (s.commandFault i c).params = s.params := rfl
@[simp] theorem State.commandFault_port (i : Instr) (c : Cause) : (s.commandFault i c).port = s.port := rfl
@[simp] theorem State.commandFault_prog (i : Instr) (c : Cause) : (s.commandFault i c).prog = s.prog := rfl
@[simp] theorem State.commandFault_pc (i : Instr) (c : Cause) : (s.commandFault i c).pc = s.pc := rfl
@[simp] theorem State.commandFault_moves (i : Instr) (c : Cause) : (s.commandFault i c).moves = s.moves := rfl
@[simp] theorem State.commandFault_hostData (i : Instr) (c : Cause) : (s.commandFault i c).hostData = s.hostData := rfl
@[simp] theorem State.commandFault_history (i : Instr) (c : Cause) : (s.commandFault i c).history = s.history := rfl
@[simp] theorem State.commandFault_bank (i : Instr) (c : Cause) : (s.commandFault i c).bank = s.bank := rfl
@[simp] theorem State.commandFault_draws (i : Instr) (c : Cause) : (s.commandFault i c).draws = s.draws := rfl

@[simp] theorem State.portFault_rw (i : Instr) (c : Cause) (r : RegAddr) : (s.portFault i c r).rw = s.rw := rfl
@[simp] theorem State.portFault_rt (i : Instr) (c : Cause) (r : RegAddr) : (s.portFault i c r).rt = s.rt := rfl
@[simp] theorem State.portFault_rn (i : Instr) (c : Cause) (r : RegAddr) : (s.portFault i c r).rn = s.rn := rfl
@[simp] theorem State.portFault_rb (i : Instr) (c : Cause) (r : RegAddr) : (s.portFault i c r).rb = s.rb := rfl
@[simp] theorem State.portFault_fault (i : Instr) (c : Cause) (r : RegAddr) : (s.portFault i c r).fault = s.fault.record c { code := encode i, reg := some r.code } := rfl
@[simp] theorem State.portFault_busy (i : Instr) (c : Cause) (r : RegAddr) : (s.portFault i c r).busy = false := rfl
@[simp] theorem State.portFault_half (i : Instr) (c : Cause) (r : RegAddr) : (s.portFault i c r).half = none := rfl
@[simp] theorem State.portFault_cfgl (i : Instr) (c : Cause) (r : RegAddr) : (s.portFault i c r).cfgl = s.cfgl := rfl
@[simp] theorem State.portFault_params (i : Instr) (c : Cause) (r : RegAddr) : (s.portFault i c r).params = s.params := rfl
@[simp] theorem State.portFault_port (i : Instr) (c : Cause) (r : RegAddr) : (s.portFault i c r).port = s.port := rfl
@[simp] theorem State.portFault_prog (i : Instr) (c : Cause) (r : RegAddr) : (s.portFault i c r).prog = s.prog := rfl
@[simp] theorem State.portFault_pc (i : Instr) (c : Cause) (r : RegAddr) : (s.portFault i c r).pc = s.pc := rfl
@[simp] theorem State.portFault_moves (i : Instr) (c : Cause) (r : RegAddr) : (s.portFault i c r).moves = s.moves := rfl
@[simp] theorem State.portFault_hostData (i : Instr) (c : Cause) (r : RegAddr) : (s.portFault i c r).hostData = s.hostData := rfl
@[simp] theorem State.portFault_history (i : Instr) (c : Cause) (r : RegAddr) : (s.portFault i c r).history = s.history := rfl
@[simp] theorem State.portFault_bank (i : Instr) (c : Cause) (r : RegAddr) : (s.portFault i c r).bank = s.bank := rfl
@[simp] theorem State.portFault_draws (i : Instr) (c : Cause) (r : RegAddr) : (s.portFault i c r).draws = s.draws := rfl

@[simp] theorem State.applyReset_rw : s.applyReset.rw = State.reset.rw := rfl
@[simp] theorem State.applyReset_rt : s.applyReset.rt = State.reset.rt := rfl
@[simp] theorem State.applyReset_rn : s.applyReset.rn = State.reset.rn := rfl
@[simp] theorem State.applyReset_rb : s.applyReset.rb = State.reset.rb := rfl
@[simp] theorem State.applyReset_fault : s.applyReset.fault = FaultReg.none := rfl
@[simp] theorem State.applyReset_busy : s.applyReset.busy = false := rfl
@[simp] theorem State.applyReset_half : s.applyReset.half = none := rfl
@[simp] theorem State.applyReset_cfgl : s.applyReset.cfgl = 0 := rfl
@[simp] theorem State.applyReset_params : s.applyReset.params = s.params := rfl
@[simp] theorem State.applyReset_port : s.applyReset.port = s.port := rfl
@[simp] theorem State.applyReset_prog : s.applyReset.prog = s.prog := rfl
@[simp] theorem State.applyReset_pc : s.applyReset.pc = 0 := rfl
@[simp] theorem State.applyReset_moves : s.applyReset.moves = s.moves := rfl
@[simp] theorem State.applyReset_hostData : s.applyReset.hostData = s.hostData := rfl
@[simp] theorem State.applyReset_history : s.applyReset.history = s.history := rfl
@[simp] theorem State.applyReset_bank : s.applyReset.bank = s.bank := rfl
@[simp] theorem State.applyReset_draws : s.applyReset.draws = s.draws := rfl

@[simp] theorem State.drawn_rw : s.drawn.rw = s.rw := rfl
@[simp] theorem State.drawn_rt : s.drawn.rt = s.rt := rfl
@[simp] theorem State.drawn_rn : s.drawn.rn = s.rn := rfl
@[simp] theorem State.drawn_rb : s.drawn.rb = s.rb := rfl
@[simp] theorem State.drawn_fault : s.drawn.fault = s.fault := rfl
@[simp] theorem State.drawn_busy : s.drawn.busy = s.busy := rfl
@[simp] theorem State.drawn_half : s.drawn.half = s.half := rfl
@[simp] theorem State.drawn_cfgl : s.drawn.cfgl = s.cfgl := rfl
@[simp] theorem State.drawn_params : s.drawn.params = s.params := rfl
@[simp] theorem State.drawn_port : s.drawn.port = s.port := rfl
@[simp] theorem State.drawn_prog : s.drawn.prog = s.prog := rfl
@[simp] theorem State.drawn_pc : s.drawn.pc = s.pc := rfl
@[simp] theorem State.drawn_moves : s.drawn.moves = s.moves := rfl
@[simp] theorem State.drawn_hostData : s.drawn.hostData = s.hostData := rfl
@[simp] theorem State.drawn_history : s.drawn.history = s.history := rfl
@[simp] theorem State.drawn_bank : s.drawn.bank = s.bank.advance 1 := rfl
@[simp] theorem State.drawn_draws : s.drawn.draws = s.draws + 1 := rfl

@[simp] theorem State.logged_rw (e : Event) : (s.logged e).rw = s.rw := rfl
@[simp] theorem State.logged_rt (e : Event) : (s.logged e).rt = s.rt := rfl
@[simp] theorem State.logged_rn (e : Event) : (s.logged e).rn = s.rn := rfl
@[simp] theorem State.logged_rb (e : Event) : (s.logged e).rb = s.rb := rfl
@[simp] theorem State.logged_fault (e : Event) : (s.logged e).fault = s.fault := rfl
@[simp] theorem State.logged_busy (e : Event) : (s.logged e).busy = s.busy := rfl
@[simp] theorem State.logged_half (e : Event) : (s.logged e).half = s.half := rfl
@[simp] theorem State.logged_cfgl (e : Event) : (s.logged e).cfgl = s.cfgl := rfl
@[simp] theorem State.logged_params (e : Event) : (s.logged e).params = s.params := rfl
@[simp] theorem State.logged_port (e : Event) : (s.logged e).port = s.port := rfl
@[simp] theorem State.logged_prog (e : Event) : (s.logged e).prog = s.prog := rfl
@[simp] theorem State.logged_pc (e : Event) : (s.logged e).pc = s.pc := rfl
@[simp] theorem State.logged_moves (e : Event) : (s.logged e).moves = s.moves := rfl
@[simp] theorem State.logged_hostData (e : Event) : (s.logged e).hostData = s.hostData := rfl
@[simp] theorem State.logged_history (e : Event) : (s.logged e).history = s.history ++ [e] := rfl
@[simp] theorem State.logged_bank (e : Event) : (s.logged e).bank = s.bank.advance 1 := rfl
@[simp] theorem State.logged_draws (e : Event) : (s.logged e).draws = s.draws + 1 := rfl

@[simp] theorem State.present_rw (q : Request) : (s.present q).rw = s.rw := rfl
@[simp] theorem State.present_rt (q : Request) : (s.present q).rt = s.rt := rfl
@[simp] theorem State.present_rn (q : Request) : (s.present q).rn = s.rn := rfl
@[simp] theorem State.present_rb (q : Request) : (s.present q).rb = s.rb := rfl
@[simp] theorem State.present_fault (q : Request) : (s.present q).fault = s.fault := rfl
@[simp] theorem State.present_busy (q : Request) : (s.present q).busy = s.busy := rfl
@[simp] theorem State.present_half (q : Request) : (s.present q).half = s.half := rfl
@[simp] theorem State.present_cfgl (q : Request) : (s.present q).cfgl = s.cfgl := rfl
@[simp] theorem State.present_params (q : Request) : (s.present q).params = s.params := rfl
@[simp] theorem State.present_port (q : Request) : (s.present q).port = q := rfl
@[simp] theorem State.present_prog (q : Request) : (s.present q).prog = s.prog := rfl
@[simp] theorem State.present_pc (q : Request) : (s.present q).pc = s.pc := rfl
@[simp] theorem State.present_moves (q : Request) : (s.present q).moves = s.moves := rfl
@[simp] theorem State.present_hostData (q : Request) : (s.present q).hostData = s.hostData := rfl
@[simp] theorem State.present_history (q : Request) : (s.present q).history = s.history := rfl
@[simp] theorem State.present_bank (q : Request) : (s.present q).bank = s.bank := rfl
@[simp] theorem State.present_draws (q : Request) : (s.present q).draws = s.draws := rfl

end Sys2Proof.Machine
end

