-- ==== Sys2Proof/Laws/Ops.lean ====
section
/-! SUPPORT. What each shared operation can do, said once: the register port, the shapes of commands, taking a fault, reading a
latch, and the sequencer's turn. -/

namespace Sys2Proof

/-! ## The wire and the bank -/

theorem wordHi_toNat (w : Word) : (wordHi w).toNat = w.toNat / 256 := by
  have := w.isLt
  simp [wordHi, Nat.shiftRight_eq_div_pow]; omega

theorem wordLo_toNat (w : Word) : (wordLo w).toNat = w.toNat % 256 := by
  simp [wordLo]

theorem wordOfBytes_toNat (b0 b1 : Byte) : (wordOfBytes b0 b1).toNat = b0.toNat * 256 + b1.toNat := by
  have := b0.isLt
  have := b1.isLt
  simp [wordOfBytes]; omega

@[simp] theorem wordOfBytes_split (w : Word) : wordOfBytes (wordHi w) (wordLo w) = w :=
  BitVec.eq_of_toNat_eq (by rw [wordOfBytes_toNat, wordHi_toNat, wordLo_toNat]; omega)

@[simp] theorem wordHi_wordOfBytes (b0 b1 : Byte) : wordHi (wordOfBytes b0 b1) = b0 :=
  BitVec.eq_of_toNat_eq (by have := b1.isLt; rw [wordHi_toNat, wordOfBytes_toNat]; omega)

@[simp] theorem wordLo_wordOfBytes (b0 b1 : Byte) : wordLo (wordOfBytes b0 b1) = b1 :=
  BitVec.eq_of_toNat_eq (by have := b1.isLt; rw [wordLo_toNat, wordOfBytes_toNat]; omega)

@[simp] theorem Bank.advance_zero (b : Bank) : b.advance 0 = b := by cases b <;> rfl

@[simp] theorem Bank.advance_advance (b : Bank) (j k : Nat) : (b.advance j).advance k = b.advance (j + k) := by
  cases b with
  | oracle answers => simp [Bank.advance, List.drop_drop]
  | store m0 => rfl

@[simp] theorem Bank.advance_store (m0 : Image) (k : Nat) : (Bank.store m0).advance k = .store m0 := rfl

@[simp] theorem storeWord_nil (m0 : Image) (r : RegAddr) : storeWord m0 [] r = m0.get r := rfl

theorem storeWord_append_rd (m0 : Image) (h : List Event) (r q : RegAddr) (w : Word) :
    storeWord m0 (h ++ [.rd q w]) r = storeWord m0 h r := by
  simp [storeWord, List.foldl_append]

theorem storeWord_append_wr (m0 : Image) (h : List Event) (r q : RegAddr) (w : Word) :
    storeWord m0 (h ++ [.wr q w]) r = if q = r then w else storeWord m0 h r := by
  simp [storeWord, List.foldl_append]

end Sys2Proof

namespace Sys2Proof.Machine

variable (s : State)

/-! ## Latches and FAULT -/

@[simp] theorem Latch.invalid_valid {α : Type} (l : Latch α) : l.invalid.valid = false := rfl
@[simp] theorem Latch.invalid_value {α : Type} (l : Latch α) : l.invalid.value = l.value := rfl
@[simp] theorem Latch.written_valid {α : Type} (v : α) : (Latch.written v).valid = true := rfl
@[simp] theorem Latch.written_value {α : Type} (v : α) : (Latch.written v).value = v := rfl
@[simp] theorem Latch.read_invalid {α : Type} (l : Latch α) : l.invalid.read = none := rfl
@[simp] theorem Latch.read_written {α : Type} (v : α) : (Latch.written v).read = some v := rfl

/-- A fault register that holds a fault keeps it. -/
theorem FaultReg.record_set (f : FaultReg) (c : Cause) (info : FaultInfo) (h : f.set = true) : f.record c info = f := by
  simp [FaultReg.record, h]

/-- A clear fault register takes the fault. -/
theorem FaultReg.record_clear (f : FaultReg) (c : Cause) (info : FaultInfo) (h : f.set = false) :
    f.record c info = { set := true, cause := c.code, info := info } := by
  simp [FaultReg.record, h]

/-- Recording a fault keeps the register well formed. -/
theorem FaultReg.record_wf (f : FaultReg) (c : Cause) (info : FaultInfo) (h : f.wf) : (f.record c info).wf := by
  unfold FaultReg.record
  split
  · exact h
  · refine ⟨by simp, fun _ => ?_⟩
    cases c <;> simp [Cause.code]

/-! ## The port -/

@[simp] theorem portRead_start (r : RegAddr) : s.start.portRead r = s.portRead r := rfl
@[simp] theorem portAck_start (r : RegAddr) (w : Word) : s.start.portAck r w = s.portAck r w := rfl
@[simp] theorem portRead_present (q : Request) (r : RegAddr) : (s.present q).portRead r = s.portRead r := rfl
@[simp] theorem portAck_present (q : Request) (r : RegAddr) (w : Word) : (s.present q).portAck r w = s.portAck r w := rfl

/-- What a transaction is answered depends on the bank, the parameters, the draws and the history alone. -/
theorem portRead_congr {s t : State} (r : RegAddr) (hb : s.bank = t.bank) (hp : s.params = t.params)
    (hd : s.draws = t.draws) (hh : s.history = t.history) : s.portRead r = t.portRead r := by
  simp [State.portRead, State.readAnswer, hb, hp, hd, hh]

theorem portAck_congr {s t : State} (r : RegAddr) (w : Word) (hb : s.bank = t.bank) (hp : s.params = t.params)
    (hd : s.draws = t.draws) (hh : s.history = t.history) : s.portAck r w = t.portAck r w := by
  simp [State.portAck, hb, hp, hd, hh]

/-- Under the store oracle every read is answered, with the word the image holds. -/
theorem portRead_store (r : RegAddr) {m0 : Image} (h : s.bank = .store m0) :
    s.portRead r = some (storeWord m0 s.history r) := by
  simp [State.portRead, State.readAnswer, h, ReadAnswer.toWord]

/-- Under the store oracle every write is taken. -/
theorem portAck_store (r : RegAddr) (w : Word) {m0 : Image} (h : s.bank = .store m0) : s.portAck r w = true := by
  simp [State.portAck, h]

/-! ## Command shapes -/

theorem memRead_cases (i : Instr) (r : RegAddr) (k : Word → State → State) :
    (∃ w, s.portRead r = some w ∧ memRead i r k s = k w (s.logged (.rd r w))) ∨
    (s.portRead r = none ∧ memRead i r k s = s.drawn.portFault i .portReadFault r) := by
  unfold memRead
  cases h : s.portRead r with
  | some w => exact .inl ⟨w, rfl, rfl⟩
  | none => exact .inr ⟨rfl, rfl⟩

theorem readCommand_cases (i : Instr) (r : RegAddr) (k : Word → State → State) :
    (∃ w, s.portRead r = some w ∧ readCommand i r k s = (k w (s.start.logged (.rd r w))).done) ∨
    (s.portRead r = none ∧ readCommand i r k s = s.start.drawn.portFault i .portReadFault r) := by
  simpa [readCommand] using memRead_cases s.start i r (fun w t => (k w t).done)

theorem writeCommand_cases (i : Instr) (r : RegAddr) (w : Word) :
    (s.portAck r w = true ∧ writeCommand i r w s = (s.start.logged (.wr r w)).done) ∨
    (s.portAck r w = false ∧ writeCommand i r w s = s.start.drawn.portFault i .portWriteFault r) := by
  unfold writeCommand memWrite
  cases h : s.portAck r w <;> simp [h]

theorem writeBack_cases (i : Instr) (before : Word) (f : ConfigField) (v : Int) :
    (s.portAck .cfg (packField s.cfgl f.field v) = true ∧
      writeBack i before f v s = (s.logged (.wr .cfg (packField s.cfgl f.field v))).done) ∨
    (s.portAck .cfg (packField s.cfgl f.field v) = false ∧
      writeBack i before f v s = { s with cfgl := before }.drawn.portFault i .portWriteFault .cfg) := by
  unfold writeBack
  cases h : s.portAck .cfg (packField s.cfgl f.field v) <;> simp

/-- The state between the two halves of a read-modify-write that read `w` (42_config_fields R190). -/
def afterRead (w : Word) (s : State) : State := { s.start.logged (.rd .cfg w) with cfgl := w }

theorem setFieldCommand_cases (i : Instr) (f : ConfigField) (v : Int) :
    (∃ w, s.portRead .cfg = some w ∧ setFieldCommand i f v s = writeBack i s.cfgl f v (afterRead w s)) ∨
    (s.portRead .cfg = none ∧ setFieldCommand i f v s = s.start.drawn.portFault i .portReadFault .cfg) := by
  simpa [setFieldCommand, afterRead] using
    memRead_cases s.start i .cfg (fun w t => writeBack i s.cfgl f v { t with cfgl := w })

theorem triggerCommand_cases (i : Instr) :
    (∃ w, s.portRead .cfg = some w ∧ unpackBool w .sm = true ∧
      triggerCommand i s = writeBack i s.cfgl .ss 1 (afterRead w s)) ∨
    (∃ w, s.portRead .cfg = some w ∧ unpackBool w .sm = false ∧ triggerCommand i s = (afterRead w s).done) ∨
    (s.portRead .cfg = none ∧ triggerCommand i s = s.start.drawn.portFault i .portReadFault .cfg) := by
  rcases memRead_cases s.start i .cfg (fun w t =>
    if unpackBool w .sm then writeBack i s.cfgl .ss 1 { t with cfgl := w } else { t with cfgl := w }.done)
    with ⟨w, h, e⟩ | ⟨h, e⟩
  · cases hs : unpackBool w .sm
    · exact .inr (.inl ⟨w, h, hs, by simpa [triggerCommand, hs, afterRead] using e⟩)
    · exact .inl ⟨w, h, hs, by simpa [triggerCommand, hs, afterRead] using e⟩
  · exact .inr (.inr ⟨h, e⟩)

theorem thresholdCommand_cases (i : Instr) (r : RegAddr) (t : Temp) :
    (∃ w, encodeTemp t = some w ∧ thresholdCommand i r t s = writeCommand i r w s) ∨
    (encodeTemp t = none ∧ thresholdCommand i r t s = s.start.commandFault i .encodeRange) := by
  unfold thresholdCommand
  cases encodeTemp t with
  | some w => exact .inl ⟨w, rfl, rfl⟩
  | none => exact .inr ⟨rfl, rfl⟩

theorem fieldCommand_cases (i : Instr) (k : State → State) :
    (s.port.field.wf ∧ fieldCommand i k s = compute k s) ∨
    (¬ s.port.field.wf ∧ fieldCommand i k s = s.start.commandFault i .packRange) := by
  unfold fieldCommand fieldInRange Field.wf
  by_cases h : 1 ≤ s.port.field.wid ∧ s.port.field.off + s.port.field.wid ≤ 16
  · exact .inl ⟨h, by simp [h.2]; omega⟩
  · exact .inr ⟨h, by simp; omega⟩

/-! ## Outcomes in closed form: the states `completed` and `faulted` of Safety.lean -/

theorem logged_done_eq (e : Event) : (s.start.logged e).done = s.completed [e] := rfl

theorem start_done_eq : s.start.done = s.completed [] := by
  simp [State.start, State.done, State.completed, State.clearValid, Latch.invalid]

theorem portFault_eq (i : Instr) (c : Cause) (r : RegAddr) :
    s.start.drawn.portFault i c r = s.faulted c.code (encode i) (some r.code) [] 1 := by
  simp [State.start, State.drawn, State.portFault, State.takeFault, State.faulted, State.clearValid, Latch.invalid,
    FaultReg.record]
  rfl

theorem commandFault_eq (i : Instr) (c : Cause) :
    s.start.commandFault i c = s.faulted c.code (encode i) none [] 0 := by
  simp [State.start, State.commandFault, State.takeFault, State.faulted, State.clearValid, Latch.invalid,
    FaultReg.record]
  rfl

theorem illegalCommand_eq (cmd : Byte) : illegalCommand cmd s = s.faulted 1 cmd none [] 0 := by
  simp [illegalCommand, State.start, State.takeFault, State.faulted, State.clearValid, Latch.invalid, FaultReg.record,
    Cause.code]
  rfl

/-- A read-modify-write that completes. -/
theorem afterRead_done_eq (w w' : Word) :
    ((afterRead w s).logged (.wr .cfg w')).done = { s.completed [.rd .cfg w, .wr .cfg w'] with cfgl := w } := by
  simp [afterRead, State.logged, State.drawn, State.done, State.completed, State.start, State.clearValid, Latch.invalid]

/-- A read-modify-write whose write fails. -/
theorem afterRead_fault_eq (i : Instr) (w : Word) :
    ({ afterRead w s with cfgl := s.cfgl } : State).drawn.portFault i .portWriteFault .cfg =
      s.faulted 5 (encode i) (some 1) [.rd .cfg w] 2 := by
  simp [afterRead, State.logged, State.drawn, State.portFault, State.takeFault, State.faulted, State.start,
    State.clearValid, Latch.invalid, FaultReg.record, Cause.code, RegAddr.code]

/-- The write half of a read-modify-write that read `w`, in closed form. -/
theorem writeBack_afterRead_cases (i : Instr) (w : Word) (f : ConfigField) (v : Int) :
    ((s.completed [.rd .cfg w]).portAck .cfg (packField w f.field v) = true ∧
      writeBack i s.cfgl f v (afterRead w s) =
        { s.completed [.rd .cfg w, .wr .cfg (packField w f.field v)] with cfgl := w }) ∨
    ((s.completed [.rd .cfg w]).portAck .cfg (packField w f.field v) = false ∧
      writeBack i s.cfgl f v (afterRead w s) = s.faulted 5 (encode i) (some 1) [.rd .cfg w] 2) := by
  rcases writeBack_cases (afterRead w s) i s.cfgl f v with ⟨h, e⟩ | ⟨h, e⟩
  · exact .inl ⟨h, e.trans (afterRead_done_eq s w _)⟩
  · exact .inr ⟨h, e.trans (afterRead_fault_eq s i w)⟩

/-! ## The host -/

theorem hostRead_cases (l : LatchId) :
    (∃ v, s.latchValue l = some v ∧ hostRead l s = (some v, s)) ∨
    (s.latchValue l = none ∧ hostRead l s = (none, s.takeFault .resultInvalid { code := l.code, reg := none })) := by
  unfold hostRead
  cases s.latchValue l with
  | some v => exact .inl ⟨v, rfl, rfl⟩
  | none => exact .inr ⟨rfl, rfl⟩

/-- The sequencer's turn of an idle machine with a legal command to present. -/
theorem issue_of_decode {q : Request} {i : Instr} (hb : s.busy = false) (hf : s.fault.set = false)
    (hq : s.prog[s.pc]? = some q) (hd : decode q.cmd = .ok i) : issue s = exec i (s.present q) := by
  simp [issue, hb, State.nextRequest, State.accepts, hf, hq, runRequest, hd]

end Sys2Proof.Machine
end

