-- ==== Sys2Proof/Laws/Exec.lean ====
section
/-! SUPPORT. What a command can do, said once for all 35: every execution ends in one of the states `Result` lists. -/

namespace Sys2Proof.Machine

/-- The only commands that complete with fewer port events than the opcode map lists (30_encoding R87): a setter whose value has no
code, with none (42_config_fields R191, R192), and TRIGSS awake, with its read (R199). -/
abbrev completesEarly (i : Instr) (q : Request) (es : List Event) : Prop :=
  (i = .setfCr ∧ cycleTimeCode q.n = none ∧ es = []) ∨ (i = .setfCf ∧ faultCountCode q.n = none ∧ es = []) ∨
  (i = .trigss ∧ ∃ w, es = [.rd .cfg w] ∧ unpackBool w .sm = false)

/-- The states command `i` can reach from `s`: completed with its result in its latch, completed with no result, or faulted. -/
inductive Result (i : Instr) (s : State) : State → Prop where
  | word (es : List Event) (v : Word) (hr : i.result = some .rw) (hp : es.map eventKind = portPattern i) :
      Result i s { s.completed es with rw := { value := v, valid := true } }
  | temp (es : List Event) (v : Temp) (hr : i.result = some .rt) (hp : es.map eventKind = portPattern i) :
      Result i s { s.completed es with rt := { value := v, valid := true } }
  | int (es : List Event) (v : Nat) (hr : i.result = some .rn) (hp : es.map eventKind = portPattern i) (hv : v < 65536) :
      Result i s { s.completed es with rn := { value := v, valid := true } }
  | bool (es : List Event) (v : Bool) (hr : i.result = some .rb) (hp : es.map eventKind = portPattern i) :
      Result i s { s.completed es with rb := { value := v, valid := true } }
  | silent (es : List Event) (c : Word) (hr : i.result = none) (hp : es.map eventKind <+: portPattern i)
      (hd : es.map eventKind = portPattern i ∨ completesEarly i s.port es) :
      Result i s { s.completed es with cfgl := c }
  | fault (c : BitVec 4) (reg : Option (BitVec 2)) (es : List Event) (k : Nat) (h1 : 1 ≤ c.toNat) (h2 : c.toNat ≤ 5)
      (hp : es.map eventKind <+: portPattern i) (hk : es.length ≤ k) :
      Result i s (s.faulted c (encode i) reg es k)

variable (s : State)

theorem Result.ofCompute {i : Instr} (k : State → State) (h : Result i s (k s.start).done) : Result i s (compute k s) := h

theorem Result.portFault {i : Instr} (c : Cause) (r : RegAddr) (hc : c = .portReadFault ∨ c = .portWriteFault) :
    Result i s (s.start.drawn.portFault i c r) := by
  rw [portFault_eq]
  exact .fault _ _ [] 1 (by rcases hc with rfl | rfl <;> decide) (by rcases hc with rfl | rfl <;> decide)
    (by simp) (by simp)

theorem Result.commandFault {i : Instr} (c : Cause) (hc : c ≠ .resultInvalid) : Result i s (s.start.commandFault i c) := by
  rw [commandFault_eq]
  refine .fault _ _ [] 0 ?_ ?_ (by simp) (by simp) <;> cases c <;> first | contradiction | decide

theorem Result.readWord {i : Instr} {r : RegAddr} (k : Word → Word) (hr : i.result = some .rw)
    (hp : portPattern i = [(false, r)]) : Result i s (readCommand i r (fun w => State.setRW (k w)) s) := by
  rcases readCommand_cases s i r (fun w => State.setRW (k w)) with ⟨w, -, e⟩ | ⟨-, e⟩ <;> rw [e]
  · exact .word [.rd r w] (k w) hr (by simp [hp, eventKind])
  · exact .portFault s _ _ (.inl rfl)

theorem Result.readTemp {i : Instr} {r : RegAddr} (k : Word → Temp) (hr : i.result = some .rt)
    (hp : portPattern i = [(false, r)]) : Result i s (readCommand i r (fun w => State.setRT (k w)) s) := by
  rcases readCommand_cases s i r (fun w => State.setRT (k w)) with ⟨w, -, e⟩ | ⟨-, e⟩ <;> rw [e]
  · exact .temp [.rd r w] (k w) hr (by simp [hp, eventKind])
  · exact .portFault s _ _ (.inl rfl)

theorem Result.readInt {i : Instr} {r : RegAddr} (k : Word → Nat) (hr : i.result = some .rn)
    (hp : portPattern i = [(false, r)]) (hk : ∀ w, k w < 65536) :
    Result i s (readCommand i r (fun w => State.setRN (k w)) s) := by
  rcases readCommand_cases s i r (fun w => State.setRN (k w)) with ⟨w, -, e⟩ | ⟨-, e⟩ <;> rw [e]
  · exact .int [.rd r w] (k w) hr (by simp [hp, eventKind]) (hk w)
  · exact .portFault s _ _ (.inl rfl)

theorem Result.readBool {i : Instr} {r : RegAddr} (k : Word → Bool) (hr : i.result = some .rb)
    (hp : portPattern i = [(false, r)]) : Result i s (readCommand i r (fun w => State.setRB (k w)) s) := by
  rcases readCommand_cases s i r (fun w => State.setRB (k w)) with ⟨w, -, e⟩ | ⟨-, e⟩ <;> rw [e]
  · exact .bool [.rd r w] (k w) hr (by simp [hp, eventKind])
  · exact .portFault s _ _ (.inl rfl)

theorem Result.write {i : Instr} {r : RegAddr} (w : Word) (hr : i.result = none) (hp : portPattern i = [(true, r)]) :
    Result i s (writeCommand i r w s) := by
  rcases writeCommand_cases s i r w with ⟨-, e⟩ | ⟨-, e⟩ <;> rw [e]
  · exact .silent [.wr r w] s.cfgl hr (by simp [hp, eventKind]) (.inl (by simp [hp, eventKind]))
  · exact .portFault s _ _ (.inr rfl)

theorem Result.threshold {i : Instr} {r : RegAddr} (t : Temp) (hr : i.result = none) (hp : portPattern i = [(true, r)]) :
    Result i s (thresholdCommand i r t s) := by
  rcases thresholdCommand_cases s i r t with ⟨w, -, e⟩ | ⟨-, e⟩ <;> rw [e]
  · exact .write s w hr hp
  · exact .commandFault s _ (by decide)

theorem Result.writeBack {i : Instr} (w : Word) (f : ConfigField) (v : Int) (hr : i.result = none)
    (hp : portPattern i = [(false, .cfg), (true, .cfg)]) : Result i s (writeBack i s.cfgl f v (afterRead w s)) := by
  rcases writeBack_afterRead_cases s i w f v with ⟨-, e⟩ | ⟨-, e⟩ <;> rw [e]
  · exact .silent _ w hr (by simp [hp, eventKind]) (.inl (by simp [hp, eventKind]))
  · exact .fault _ _ [.rd .cfg w] 2 (by decide) (by decide) (by simp [hp, eventKind]) (by simp)

theorem Result.setField {i : Instr} (f : ConfigField) (v : Int) (hr : i.result = none)
    (hp : portPattern i = [(false, .cfg), (true, .cfg)]) : Result i s (setFieldCommand i f v s) := by
  rcases setFieldCommand_cases s i f v with ⟨w, -, e⟩ | ⟨-, e⟩ <;> rw [e]
  · exact .writeBack s w f v hr hp
  · exact .portFault s _ _ (.inl rfl)

theorem Result.setLogical {i : Instr} (f : ConfigField) (code : Option Int) (hi : code = none → completesEarly i s.port [])
    (hr : i.result = none) (hp : portPattern i = [(false, .cfg), (true, .cfg)]) :
    Result i s (setLogicalCommand i f code s) := by
  cases code with
  | some v => exact .setField s f v hr hp
  | none =>
    rw [show setLogicalCommand i f none s = s.completed [] from start_done_eq s]
    exact .silent [] s.cfgl hr (by simp) (.inr (hi rfl))

theorem Result.trigger : Result .trigss s (triggerCommand .trigss s) := by
  rcases triggerCommand_cases s .trigss with ⟨w, -, -, e⟩ | ⟨w, -, hs, e⟩ | ⟨-, e⟩ <;> rw [e]
  · exact .writeBack s w .ss 1 rfl rfl
  · exact .silent [.rd .cfg w] w rfl (by simp [portPattern, eventKind]) (.inr (.inr (.inr ⟨rfl, w, rfl, hs⟩)))
  · exact .portFault s _ _ (.inl rfl)

theorem Result.field {i : Instr} (k : State → State) (h : Result i s (compute k s)) : Result i s (fieldCommand i k s) := by
  rcases fieldCommand_cases s i k with ⟨-, e⟩ | ⟨-, e⟩ <;> rw [e]
  · exact h
  · exact .commandFault s _ (by decide)

theorem compute_setRW (v : Word) :
    compute (State.setRW v) s = { s.completed [] with rw := { value := v, valid := true } } := by
  simp [compute, State.setRW, State.completed, State.done, State.start, State.clearValid, Latch.invalid, Latch.written]

theorem compute_setRT (v : Temp) :
    compute (State.setRT v) s = { s.completed [] with rt := { value := v, valid := true } } := by
  simp [compute, State.setRT, State.completed, State.done, State.start, State.clearValid, Latch.invalid, Latch.written]

theorem compute_setRN (v : Nat) :
    compute (State.setRN v) s = { s.completed [] with rn := { value := v, valid := true } } := by
  simp [compute, State.setRN, State.completed, State.done, State.start, State.clearValid, Latch.invalid, Latch.written]

/-- Every command answers a next state, and it is one of `Result`. -/
theorem exec_result (i : Instr) : ∃ t, exec i s = .next t ∧ Result i s t := by
  cases i
  case dect => exact ⟨_, rfl, by rw [compute_setRT]; exact .temp [] _ rfl rfl⟩
  case enct =>
    refine ⟨_, rfl, ?_⟩
    cases encodeTemp s.port.t with
    | some w =>
      show Result .enct s (compute (State.setRW w) s)
      rw [compute_setRW]; exact .word [] _ rfl rfl
    | none => exact .commandFault s _ (by decide)
  case c2f => exact ⟨_, rfl, by rw [compute_setRT]; exact .temp [] _ rfl rfl⟩
  case f2c => exact ⟨_, rfl, by rw [compute_setRT]; exact .temp [] _ rfl rfl⟩
  case pack => exact ⟨_, rfl, .field s _ (by rw [compute_setRW]; exact .word [] _ rfl rfl)⟩
  case unpack =>
    exact ⟨_, rfl, .field s _ (by rw [compute_setRN]; exact .int [] _ rfl rfl (unpackField_lt_wordSize _ _))⟩
  case rdregTval | rdregCfg | rdregTlow | rdregThigh => exact ⟨_, rfl, .readWord s (fun w => w) rfl rfl⟩
  case wrregCfg | wrregTlow | wrregThigh => exact ⟨_, rfl, .write s _ rfl rfl⟩
  case rdtempC | rdtempF | getthLowC | getthLowF | getthHighC | getthHighF => exact ⟨_, rfl, .readTemp s _ rfl rfl⟩
  case setthLow | setthHigh => exact ⟨_, rfl, .threshold s _ rfl rfl⟩
  case getfAl | getfSm | getfIm | getfPol | getfSs => exact ⟨_, rfl, .readBool s _ rfl rfl⟩
  case getfCr => exact ⟨_, rfl, .readInt s _ rfl rfl fun w => cycleTimeMs_lt_wordSize _⟩
  case getfCf =>
    refine ⟨_, rfl, .readInt s _ rfl rfl fun w => ?_⟩
    have := unpackField_lt w ConfigField.cf.field
    simp only [ConfigField.field_cf, faultCount] at *; omega
  case setfCr => exact ⟨_, rfl, .setLogical s _ _ (fun h => .inl ⟨rfl, h, rfl⟩) rfl rfl⟩
  case setfCf => exact ⟨_, rfl, .setLogical s _ _ (fun h => .inr (.inl ⟨rfl, h, rfl⟩)) rfl rfl⟩
  case setfSm | setfIm | setfPol | setfSs => exact ⟨_, rfl, .setField s _ _ rfl rfl⟩
  case trigss => exact ⟨_, rfl, .trigger s⟩

/-- What a command reached, from what it answered. -/
theorem result_of_exec {i : Instr} {s t : State} (h : exec i s = .next t) : Result i s t := by
  obtain ⟨u, hu, r⟩ := exec_result s i
  rw [h] at hu
  injection hu with hu
  exact hu ▸ r

/-- A command starts by clearing the valid bits and setting BUSY, so that it makes no difference whether that was done before. -/
theorem exec_start (i : Instr) : exec i s.start = exec i s := by cases i <;> rfl

end Sys2Proof.Machine
end

