-- ==== Sys2Proof/Laws/PerInstr.lean ====
section
/-! SUPPORT. Per-instruction lemmas: each command is well formed and its word decodes to it. -/

namespace Sys2Proof.Laws.Encoding

/-- Command `i` is well formed and its word, as 30_encoding R82 to R86 lay it out, decodes to it. -/
def Statement (i : Instr) : Prop := i.wf = true ∧ decode (encode i) = .ok i

theorem dect : Statement .dect := ⟨rfl, by decide⟩
theorem enct : Statement .enct := ⟨rfl, by decide⟩
theorem c2f : Statement .c2f := ⟨rfl, by decide⟩
theorem f2c : Statement .f2c := ⟨rfl, by decide⟩
theorem pack : Statement .pack := ⟨rfl, by decide⟩
theorem unpack : Statement .unpack := ⟨rfl, by decide⟩
theorem rdregTval : Statement .rdregTval := ⟨rfl, by decide⟩
theorem rdregCfg : Statement .rdregCfg := ⟨rfl, by decide⟩
theorem rdregTlow : Statement .rdregTlow := ⟨rfl, by decide⟩
theorem rdregThigh : Statement .rdregThigh := ⟨rfl, by decide⟩
theorem wrregCfg : Statement .wrregCfg := ⟨rfl, by decide⟩
theorem wrregTlow : Statement .wrregTlow := ⟨rfl, by decide⟩
theorem wrregThigh : Statement .wrregThigh := ⟨rfl, by decide⟩
theorem rdtempC : Statement .rdtempC := ⟨rfl, by decide⟩
theorem rdtempF : Statement .rdtempF := ⟨rfl, by decide⟩
theorem getthLowC : Statement .getthLowC := ⟨rfl, by decide⟩
theorem getthLowF : Statement .getthLowF := ⟨rfl, by decide⟩
theorem getthHighC : Statement .getthHighC := ⟨rfl, by decide⟩
theorem getthHighF : Statement .getthHighF := ⟨rfl, by decide⟩
theorem setthLow : Statement .setthLow := ⟨rfl, by decide⟩
theorem setthHigh : Statement .setthHigh := ⟨rfl, by decide⟩
theorem getfAl : Statement .getfAl := ⟨rfl, by decide⟩
theorem getfCr : Statement .getfCr := ⟨rfl, by decide⟩
theorem getfSm : Statement .getfSm := ⟨rfl, by decide⟩
theorem getfIm : Statement .getfIm := ⟨rfl, by decide⟩
theorem getfPol : Statement .getfPol := ⟨rfl, by decide⟩
theorem getfCf : Statement .getfCf := ⟨rfl, by decide⟩
theorem getfSs : Statement .getfSs := ⟨rfl, by decide⟩
theorem setfCr : Statement .setfCr := ⟨rfl, by decide⟩
theorem setfSm : Statement .setfSm := ⟨rfl, by decide⟩
theorem setfIm : Statement .setfIm := ⟨rfl, by decide⟩
theorem setfPol : Statement .setfPol := ⟨rfl, by decide⟩
theorem setfCf : Statement .setfCf := ⟨rfl, by decide⟩
theorem setfSs : Statement .setfSs := ⟨rfl, by decide⟩
theorem trigss : Statement .trigss := ⟨rfl, by decide⟩

end Sys2Proof.Laws.Encoding
end

