-- ==== Sys2Proof/Laws/Step.lean ====
section
/-! SUPPORT. What the block's turn, one event of it, a move and a step can do, each said once, and runs of several steps. -/

namespace Sys2Proof.Machine

/-- A request is presented only to an idle block with FAULT clear, and only within the list. -/
theorem nextRequest_some {s : State} {q : Request} (h : s.nextRequest = some q) :
    s.busy = false ∧ s.fault.set = false ∧ s.prog[s.pc]? = some q ∧ s.pc < s.prog.length := by
  unfold State.nextRequest State.accepts at h
  split at h
  · rename_i a
    simp only [Bool.and_eq_true, Bool.not_eq_eq_eq_not, Bool.not_true] at a
    exact ⟨a.1, a.2, h, (List.getElem?_eq_some_iff.mp h).1⟩
  · simp at h

/-- Every request that is run has a next state. -/
theorem runRequest_next (q : Request) (s : State) : ∃ t, runRequest q s = .next t := by
  unfold runRequest
  cases decode q.cmd with
  | ok i => obtain ⟨t, h, -⟩ := exec_result (s.present q) i; exact ⟨t, h⟩
  | error => exact ⟨_, rfl⟩

/-! ## The block's turn -/

/-- What the block can do in a turn: wait, run a command to its outcome (the next, which it samples, or the sampled one it is
inside), take an illegal word's fault, or write what it read before. -/
inductive Turn (s : State) : State → Prop where
  | waits (h : s.fault.set = true ∨ s.busy = false ∧ s.prog.length ≤ s.pc) : Turn s s
  | runs (q : Request) (i : Instr) (t : State) (hf : s.fault.set = false)
      (hq : s.busy = false ∧ s.prog[s.pc]? = some q ∨ s.busy = true ∧ s.port = q)
      (hd : decode q.cmd = .ok i) (he : exec i (s.present q) = .next t) : Turn s t
  | illegal (q : Request) (e : Illegal) (hf : s.fault.set = false)
      (hq : s.busy = false ∧ s.prog[s.pc]? = some q ∨ s.busy = true ∧ s.port = q)
      (hd : decode q.cmd = .error e) : Turn s (illegalCommand q.cmd (s.present q))
  | writes (i : Instr) (before : Word) (f : ConfigField) (v : Int) (hf : s.fault.set = false) (hb : s.busy = true)
      (hd : decode s.port.cmd = .ok i) (hh : s.half = some before) (hm : readModifyWrite i s.port = some (f, v)) :
      Turn s (writeBack i before f v s)

variable (s : State)

theorem finish_turn (hf : s.fault.set = false) (hb : s.busy = true) : ∃ t, finish s = .next t ∧ Turn s t := by
  unfold finish
  cases hd : decode s.port.cmd with
  | error e => exact ⟨_, rfl, .illegal s.port e hf (.inr ⟨hb, rfl⟩) hd⟩
  | ok i =>
    obtain ⟨t, he, -⟩ := exec_result s i
    have hr : Turn s t := .runs s.port i t hf (.inr ⟨hb, rfl⟩) hd he
    cases hh : s.half with
    | none => exact ⟨t, he, hr⟩
    | some before =>
      cases hm : readModifyWrite i s.port with
      | none => exact ⟨t, by simp only [hm, he], hr⟩
      | some p => exact ⟨_, by simp only [hm], .writes i before p.1 p.2 hf hb hd hh hm⟩

theorem issue_turn : ∃ t, issue s = .next t ∧ Turn s t := by
  unfold issue
  split
  · exact ⟨s, rfl, .waits (.inl ‹_›)⟩
  · rename_i hf
    have hf := eq_false_of_ne_true hf
    split
    · exact finish_turn s hf ‹_›
    · rename_i hb
      have hb := eq_false_of_ne_true hb
      cases hq : s.nextRequest with
      | none =>
        simp only [State.nextRequest, State.accepts, hb, hf, Bool.not_false, Bool.and_self, if_true] at hq
        exact ⟨s, rfl, .waits (.inr ⟨hb, List.getElem?_eq_none_iff.mp hq⟩)⟩
      | some q =>
        obtain ⟨-, -, hp, -⟩ := nextRequest_some hq
        cases hd : decode q.cmd with
        | ok i =>
          obtain ⟨t, he, -⟩ := exec_result (s.present q) i
          exact ⟨t, by simp only [runRequest, hd, he], .runs q i t hf (.inl ⟨hb, hp⟩) hd he⟩
        | error e => exact ⟨_, by simp only [runRequest, hd], .illegal q e hf (.inl ⟨hb, hp⟩) hd⟩

/-! ## A step -/

/-- What one event of the block can be: the acceptance of a request, the read of a read-modify-write, or, the command having
nothing else left, its outcome. -/
inductive Part (s : State) : State → Prop where
  | turn (t : State) (h : Turn s t) : Part s t
  | accepts (q : Request) (hb : s.busy = false) (hf : s.fault.set = false) (hq : s.prog[s.pc]? = some q) : Part s (s.accept q)
  | reads (i : Instr) (hb : s.busy = true) (hf : s.fault.set = false) (hh : s.half = none) (hd : decode s.port.cmd = .ok i)
      (hm : (readModifyWrite i s.port).isSome = true) : Part s (readHalf i s)

theorem advance_part : ∃ t, advance s = .next t ∧ Part s t := by
  unfold advance
  split
  · exact ⟨s, rfl, .turn s (.waits (.inl ‹_›))⟩
  · rename_i hf
    have hf := eq_false_of_ne_true hf
    split
    · rename_i hb
      obtain ⟨t, h, ht⟩ := finish_turn s hf hb
      cases hd : decode s.port.cmd with
      | error e => exact ⟨t, h, .turn t ht⟩
      | ok i =>
        by_cases hc : (s.half.isNone && (readModifyWrite i s.port).isSome) = true
        · refine ⟨_, by simp only [hc, if_true]; rfl, ?_⟩
          simp only [Bool.and_eq_true, Option.isNone_iff_eq_none] at hc
          exact .reads i hb hf hc.1 hd hc.2
        · exact ⟨t, by simpa [hc] using h, .turn t ht⟩
    · rename_i hb
      have hb := eq_false_of_ne_true hb
      cases hq : s.nextRequest with
      | none =>
        simp only [State.nextRequest, State.accepts, hb, hf, Bool.not_false, Bool.and_self, if_true] at hq
        exact ⟨s, rfl, .turn s (.waits (.inr ⟨hb, List.getElem?_eq_none_iff.mp hq⟩))⟩
      | some q => exact ⟨_, rfl, .accepts q hb hf (nextRequest_some hq).2.2.1⟩

/-- What a move of the schedule can do. -/
inductive Served (s : State) : Move → State → Prop where
  | reset : Served s .reset s.applyReset
  | read (l : LatchId) (v : LatchValue) (h : s.latchValue l = some v) : Served s (.readLatch l) { s with hostData := some v }
  | noRead (l : LatchId) (h : s.latchValue l = none) : Served s (.readLatch l)
      { s.takeFault .resultInvalid { code := l.code, reg := none } with hostData := none }
  | turn (t : State) (h : Turn s t) : Served s .turn t
  | part (t : State) (h : Part s t) : Served s .part t

theorem serve_served (x : Move) : ∃ t, serve x s = .next t ∧ Served s x t := by
  cases x with
  | reset => exact ⟨_, rfl, .reset⟩
  | readLatch l =>
    rcases hostRead_cases s l with ⟨v, h, e⟩ | ⟨h, e⟩
    · exact ⟨_, by rw [serve, e], .read l v h⟩
    · exact ⟨_, by rw [serve, e], .noRead l h⟩
  | turn => obtain ⟨t, h, ht⟩ := issue_turn s; exact ⟨t, h, .turn t ht⟩
  | part => obtain ⟨t, h, ht⟩ := advance_part s; exact ⟨t, h, .part t ht⟩

/-- Every step answers a next state: the block's turn where no move is scheduled, and the next move where one is. -/
theorem step_next : ∃ t, step s = .next t ∧
    (s.moves = [] ∧ Turn s t ∨ ∃ x rest, s.moves = x :: rest ∧ Served { s with moves := rest } x t) := by
  unfold step
  cases hm : s.moves with
  | nil => obtain ⟨t, h, ht⟩ := issue_turn s; exact ⟨t, h, .inl ⟨rfl, ht⟩⟩
  | cons x rest => obtain ⟨t, h, ht⟩ := serve_served { s with moves := rest } x; exact ⟨t, h, .inr ⟨x, rest, rfl, ht⟩⟩

/-- What a step reached, from what it answered. -/
theorem step_cases {s t : State} (h : step s = .next t) :
    s.moves = [] ∧ Turn s t ∨ ∃ x rest, s.moves = x :: rest ∧ Served { s with moves := rest } x t := by
  obtain ⟨u, hu, r⟩ := step_next s
  rw [h] at hu
  injection hu with hu
  exact hu ▸ r

/-! ## Runs -/

/-- A run of one step more, from its first step, for any machine behind the host's interface. -/
theorem run_of_step (M : Host.Core) (k : Nat) (s t : M.State) (h : M.step s = .next t) : M.run (k + 1) s = M.run k t := by
  simp [Host.Core.run, h]

/-- The same for this machine. -/
theorem core_run_of_step {k : Nat} {s t : State} (h : step s = .next t) : core.run (k + 1) s = core.run k t :=
  run_of_step core k s t h

end Sys2Proof.Machine
end

