-- ==== Sys2Proof/Tests/Slice0.lean ====
section
/-! SUPPORT. Tests: the spec's own vectors (95_test_vectors) one step at a time, the words of the opcode map written out bit by
bit, ill-formed terms, and for every obligation with hypotheses a state that meets them. -/

open Sys2Proof Sys2Proof.Machine

namespace Sys2Proof.Tests

/-! ## Small states -/

/-- The parameters the spec computes its vectors with: reference numerics, both defaults 0. -/
def refParams : Params := { devAddr := 0x48, numerics := .reference, imComparator := false, polActiveLow := false }

/-- After reset, the store oracle with image `m`, and the one request `q` in the sequencer's list. -/
def stored (m : Image) (q : Request) : State := { State.reset with params := refParams, bank := .store m, prog := [q] }

/-- After reset, an oracle that answers `answers`, and the one request `q`. -/
def asked (answers : List PortAnswer) (q : Request) : State :=
  { State.reset with params := refParams, bank := .oracle answers, prog := [q] }

/-- The image of 95_test_vectors L2.5. -/
def m25 : Image := { tval := 0x0C90, cfg := 0x0080, tlow := 0x2580, thigh := 0x2800 }

/-- An image whose configuration word is `c`. -/
def mCfg (c : Word) : Image := { tval := 0, cfg := c, tlow := 0, thigh := 0 }

/-- The next state of an outcome. -/
def after (o : Host.Outcome State Fault Refusal) : Option State :=
  match o with
  | .next t => some t
  | _ => none

/-- The four latches as a host reads them, and the history. -/
structure Shown where
  rw : Option Word
  rt : Option Temp
  rn : Option Nat
  rb : Option Bool
  history : List Event
  deriving DecidableEq, Repr

/-- What a step from `s` shows. -/
def shows (s : State) : Option Shown :=
  (after (step s)).map fun t =>
    { rw := t.rw.read, rt := t.rt.read, rn := t.rn.read, rb := t.rb.read, history := t.history }

/-- FAULT, BUSY, pc and the history. -/
structure Faulted where
  fault : FaultReg
  busy : Bool
  pc : Nat
  history : List Event
  deriving DecidableEq, Repr

/-- What FAULT, BUSY, pc and the history are after a step from `s`. -/
def faults (s : State) : Option Faulted :=
  (after (step s)).map fun t => { fault := t.fault, busy := t.busy, pc := t.pc, history := t.history }

/-- An answer that delivers the two bytes of a word and takes any write. -/
def good (b0 b1 : Byte) : PortAnswer := { read := .bytes b0 b1, ack := true }

/-- An answer that fails, be it a read or a write. -/
def bad : PortAnswer := { read := .failed, ack := false }

/-! ## Well-formed terms -/

theorem test_wf_no_bits : ¬ ({ off := 0, wid := 0 } : Field).wf := by decide
theorem test_wf_too_wide : ¬ ({ off := 0, wid := 17 } : Field).wf := by decide
theorem test_wf_over_the_top : ¬ ({ off := 15, wid := 2 } : Field).wf := by decide
theorem test_wf_top_bit : ({ off := 15, wid := 1 } : Field).wf := by decide
theorem test_wf_overlap : ¬ ({ off := 6, wid := 2 } : Field).disjoint { off := 7, wid := 1 } := by decide
theorem test_wf_instr : allCommands.all Instr.wf = true := by decide

/-! ## Decoding: every row of 30_encoding R87, written out from the formats of R82 to R86 -/

theorem test_decode_codec :
    decode 0b0001_0000#8 = .ok .dect ∧
    decode 0b0001_0001#8 = .ok .enct ∧
    decode 0b0001_0010#8 = .ok .c2f ∧
    decode 0b0001_0011#8 = .ok .f2c ∧
    decode 0b0001_0100#8 = .ok .pack ∧
    decode 0b0001_0101#8 = .ok .unpack := by decide

theorem test_decode_rdreg :
    decode 0b0010_0000#8 = .ok .rdregTval ∧
    decode 0b0010_0001#8 = .ok .rdregCfg ∧
    decode 0b0010_0010#8 = .ok .rdregTlow ∧
    decode 0b0010_0011#8 = .ok .rdregThigh := by decide

theorem test_decode_wrreg :
    decode 0b0011_0001#8 = .ok .wrregCfg ∧
    decode 0b0011_0010#8 = .ok .wrregTlow ∧
    decode 0b0011_0011#8 = .ok .wrregThigh := by decide

theorem test_decode_rdtemp :
    decode 0b0100_0000#8 = .ok .rdtempC ∧
    decode 0b0100_0001#8 = .ok .rdtempF := by decide

theorem test_decode_getth :
    decode 0b0101_0000#8 = .ok .getthLowC ∧
    decode 0b0101_0001#8 = .ok .getthLowF ∧
    decode 0b0101_0010#8 = .ok .getthHighC ∧
    decode 0b0101_0011#8 = .ok .getthHighF := by decide

theorem test_decode_setth :
    decode 0b0110_0000#8 = .ok .setthLow ∧
    decode 0b0110_0010#8 = .ok .setthHigh := by decide

theorem test_decode_getf :
    decode 0b0111_0000#8 = .ok .getfAl ∧
    decode 0b0111_0001#8 = .ok .getfCr ∧
    decode 0b0111_0010#8 = .ok .getfSm ∧
    decode 0b0111_0011#8 = .ok .getfIm ∧
    decode 0b0111_0100#8 = .ok .getfPol ∧
    decode 0b0111_0101#8 = .ok .getfCf ∧
    decode 0b0111_0110#8 = .ok .getfSs := by decide

theorem test_decode_setf :
    decode 0b1000_0001#8 = .ok .setfCr ∧
    decode 0b1000_0010#8 = .ok .setfSm ∧
    decode 0b1000_0011#8 = .ok .setfIm ∧
    decode 0b1000_0100#8 = .ok .setfPol ∧
    decode 0b1000_0101#8 = .ok .setfCf ∧
    decode 0b1000_0110#8 = .ok .setfSs := by decide

theorem test_decode_trigss :
    decode 0b1001_0000#8 = .ok .trigss := by decide

/-- The named illegal forms of R88, and the first and the last value of some gaps. -/
theorem test_decode_illegal :
    decode 0x80 = .error .setAlertStatus ∧ decode 0x30 = .error .writeTemperature ∧ decode 0x61 = .error .thresholdUnit ∧
    decode 0x63 = .error .thresholdUnit ∧ decode 0x00 = .error .gap ∧ decode 0x0F = .error .gap ∧
    decode 0x16 = .error .gap ∧ decode 0x24 = .error .gap ∧ decode 0x34 = .error .gap ∧ decode 0x42 = .error .gap ∧
    decode 0x54 = .error .gap ∧ decode 0x64 = .error .gap ∧ decode 0x77 = .error .gap ∧ decode 0x87 = .error .gap ∧
    decode 0x91 = .error .gap ∧ decode 0xA0 = .error .gap ∧ decode 0xFF = .error .gap := by decide

theorem test_table_word : decodeTableWord 8 0x90 = some .trigss ∧ decodeTableWord 8 0x80 = none := by decide

/-- withFetchWord after reset: the very next step runs the command. -/
theorem test_fetch_word :
    (after (step (State.reset.withFetchWord 8 0x11))).map (fun t => (t.rw, t.pc)) =
      some ({ value := 0, valid := true }, 1) := by decide +kernel

/-! ## Codec commands (95_test_vectors L2.1 to L2.4) -/

theorem test_dect_negative :
    shows (stored m25 { requestOf .dect with a := 0xFF38 }) = some ⟨none, some (-65335 / 128), none, none, []⟩ := by decide +kernel

theorem test_dect_first_negative :
    shows (stored m25 { requestOf .dect with a := 0x8000 }) = some ⟨none, some (-32767 / 128), none, none, []⟩ := by decide +kernel

theorem test_enct_toward_zero :
    shows (stored m25 { requestOf .enct with t := -1 / 256 }) = some ⟨some 0x0000, none, none, none, []⟩ := by decide +kernel

theorem test_enct_lowest :
    shows (stored m25 { requestOf .enct with t := -256 }) = some ⟨some 0x8000, none, none, none, []⟩ := by decide +kernel

theorem test_c2f :
    shows (stored m25 { requestOf .c2f with t := 201 / 8 }) = some ⟨none, some (3089 / 40), none, none, []⟩ := by decide +kernel

theorem test_c2f_negative :
    shows (stored m25 { requestOf .c2f with t := -65335 / 128 }) = some ⟨none, some (-113507 / 128), none, none, []⟩ := by decide +kernel

theorem test_f2c :
    shows (stored m25 { requestOf .f2c with t := 0 }) = some ⟨none, some (-160 / 9), none, none, []⟩ := by decide +kernel

theorem test_f2c_boiling :
    shows (stored m25 { requestOf .f2c with t := 212 }) = some ⟨none, some 100, none, none, []⟩ := by decide +kernel

theorem test_pack_truncates :
    shows (stored m25 { requestOf .pack with a := 0, off := 0, wid := 16, n := 0x12345 }) = some ⟨some 0x2345, none, none, none, []⟩ := by decide +kernel

theorem test_pack_negative :
    shows (stored m25 { requestOf .pack with a := 0x1230, off := 0, wid := 3, n := -1 }) = some ⟨some 0x1237, none, none, none, []⟩ := by decide +kernel

theorem test_unpack_top_bit :
    shows (stored m25 { requestOf .unpack with a := 0x8000, off := 15, wid := 1 }) = some ⟨none, none, some 1, none, []⟩ := by decide +kernel

theorem test_unpack_nibble :
    shows (stored m25 { requestOf .unpack with a := 0xABCD, off := 12, wid := 4 }) = some ⟨none, none, some 10, none, []⟩ := by decide +kernel

/-! ## Register-port commands (L2.5) -/

theorem test_rdregTval :
    shows (stored m25 (requestOf .rdregTval)) = some ⟨some 0x0C90, none, none, none, [.rd .tval 0x0C90]⟩ := by decide +kernel

theorem test_rdregCfg :
    shows (stored m25 (requestOf .rdregCfg)) = some ⟨some 0x0080, none, none, none, [.rd .cfg 0x0080]⟩ := by decide +kernel

theorem test_rdregTlow :
    shows (stored m25 (requestOf .rdregTlow)) = some ⟨some 0x2580, none, none, none, [.rd .tlow 0x2580]⟩ := by decide +kernel

theorem test_rdregThigh :
    shows (stored m25 (requestOf .rdregThigh)) = some ⟨some 0x2800, none, none, none, [.rd .thigh 0x2800]⟩ := by decide +kernel

theorem test_rdtempC :
    shows (stored m25 (requestOf .rdtempC)) = some ⟨none, some (201 / 8), none, none, [.rd .tval 0x0C90]⟩ := by decide +kernel

theorem test_rdtempF :
    shows (stored m25 (requestOf .rdtempF)) = some ⟨none, some (3089 / 40), none, none, [.rd .tval 0x0C90]⟩ := by decide +kernel

theorem test_getthLowC :
    shows (stored m25 (requestOf .getthLowC)) = some ⟨none, some 75, none, none, [.rd .tlow 0x2580]⟩ := by decide +kernel

theorem test_getthLowF :
    shows (stored m25 (requestOf .getthLowF)) = some ⟨none, some 167, none, none, [.rd .tlow 0x2580]⟩ := by decide +kernel

theorem test_getthHighC :
    shows (stored m25 (requestOf .getthHighC)) = some ⟨none, some 80, none, none, [.rd .thigh 0x2800]⟩ := by decide +kernel

theorem test_getthHighF :
    shows (stored m25 (requestOf .getthHighF)) = some ⟨none, some 176, none, none, [.rd .thigh 0x2800]⟩ := by decide +kernel

theorem test_wrregCfg :
    shows (stored m25 { requestOf .wrregCfg with a := 0x0180 }) = some ⟨none, none, none, none, [.wr .cfg 0x0180]⟩ := by decide +kernel

theorem test_wrregTlow :
    shows (stored m25 { requestOf .wrregTlow with a := 0xFFFF }) = some ⟨none, none, none, none, [.wr .tlow 0xFFFF]⟩ := by decide +kernel

theorem test_wrregThigh :
    shows (stored m25 { requestOf .wrregThigh with a := 0x0000 }) = some ⟨none, none, none, none, [.wr .thigh 0x0000]⟩ := by decide +kernel

theorem test_setthLow :
    shows (stored m25 { requestOf .setthLow with t := -25 / 16 }) = some ⟨none, none, none, none, [.wr .tlow 0xFF38]⟩ := by decide +kernel

theorem test_setthHigh :
    shows (stored m25 { requestOf .setthHigh with t := 1 / 256 }) = some ⟨none, none, none, none, [.wr .thigh 0x0000]⟩ := by decide +kernel

/-- The bytes on the bus (20_memory R53 to R55): select and read, then register and two bytes. -/
theorem test_bus_trace :
    (after (step (stored m25 (requestOf .rdregTval)))).map State.busTrace =
      some [.write 0x48 [0x00], .read 0x48 [0x0C, 0x90]] ∧
    (after (step (stored m25 { requestOf .wrregTlow with a := 0x2580 }))).map State.busTrace =
      some [.write 0x48 [0x02, 0x25, 0x80]] := by decide +kernel

/-! ## Configuration-field commands (L2.6) -/

theorem test_getfAl_alone :
    shows (stored (mCfg 0x0020) (requestOf .getfAl)) = some ⟨none, none, none, some true, [.rd .cfg 0x0020]⟩ := by decide +kernel

theorem test_getfAl_clear :
    shows (stored (mCfg 0xFFDF) (requestOf .getfAl)) = some ⟨none, none, none, some false, [.rd .cfg 0xFFDF]⟩ := by decide +kernel

theorem test_getfSm_alone :
    shows (stored (mCfg 0x0100) (requestOf .getfSm)) = some ⟨none, none, none, some true, [.rd .cfg 0x0100]⟩ := by decide +kernel

theorem test_getfSm_clear :
    shows (stored (mCfg 0xFEFF) (requestOf .getfSm)) = some ⟨none, none, none, some false, [.rd .cfg 0xFEFF]⟩ := by decide +kernel

theorem test_getfIm_alone :
    shows (stored (mCfg 0x0200) (requestOf .getfIm)) = some ⟨none, none, none, some true, [.rd .cfg 0x0200]⟩ := by decide +kernel

theorem test_getfIm_clear :
    shows (stored (mCfg 0xFDFF) (requestOf .getfIm)) = some ⟨none, none, none, some false, [.rd .cfg 0xFDFF]⟩ := by decide +kernel

theorem test_getfPol_alone :
    shows (stored (mCfg 0x0400) (requestOf .getfPol)) = some ⟨none, none, none, some true, [.rd .cfg 0x0400]⟩ := by decide +kernel

theorem test_getfPol_clear :
    shows (stored (mCfg 0xFBFF) (requestOf .getfPol)) = some ⟨none, none, none, some false, [.rd .cfg 0xFBFF]⟩ := by decide +kernel

theorem test_getfSs_alone :
    shows (stored (mCfg 0x8000) (requestOf .getfSs)) = some ⟨none, none, none, some true, [.rd .cfg 0x8000]⟩ := by decide +kernel

theorem test_getfSs_clear :
    shows (stored (mCfg 0x7FFF) (requestOf .getfSs)) = some ⟨none, none, none, some false, [.rd .cfg 0x7FFF]⟩ := by decide +kernel

theorem test_getfCr_code2 :
    shows (stored (mCfg 0x0080) (requestOf .getfCr)) = some ⟨none, none, some 250, none, [.rd .cfg 0x0080]⟩ := by decide +kernel

theorem test_getfCr_code1 :
    shows (stored (mCfg 0x0040) (requestOf .getfCr)) = some ⟨none, none, some 1000, none, [.rd .cfg 0x0040]⟩ := by decide +kernel

theorem test_getfCf_code3 :
    shows (stored (mCfg 0x1800) (requestOf .getfCf)) = some ⟨none, none, some 4, none, [.rd .cfg 0x1800]⟩ := by decide +kernel

theorem test_getfCf_code0 :
    shows (stored (mCfg 0x0000) (requestOf .getfCf)) = some ⟨none, none, some 1, none, [.rd .cfg 0x0000]⟩ := by decide +kernel

theorem test_setfCr_250 :
    shows (stored (mCfg 0xFFFF) { requestOf .setfCr with n := 250 }) = some ⟨none, none, none, none, [.rd .cfg 0xFFFF, .wr .cfg 0xFFBF]⟩ := by decide +kernel

theorem test_setfCr_code_discarded :
    shows (stored (mCfg 0xFFFF) { requestOf .setfCr with n := 2 }) = some ⟨none, none, none, none, []⟩ := by decide +kernel

theorem test_setfCf_3 :
    shows (stored (mCfg 0xFFFF) { requestOf .setfCf with n := 3 }) = some ⟨none, none, none, none, [.rd .cfg 0xFFFF, .wr .cfg 0xF7FF]⟩ := by decide +kernel

theorem test_setfCf_5_discarded :
    shows (stored (mCfg 0xFFFF) { requestOf .setfCf with n := 5 }) = some ⟨none, none, none, none, []⟩ := by decide +kernel

theorem test_setfSm_clear :
    shows (stored (mCfg 0xFFFF) { requestOf .setfSm with b := false }) = some ⟨none, none, none, none, [.rd .cfg 0xFFFF, .wr .cfg 0xFEFF]⟩ := by decide +kernel

theorem test_setfSm_set :
    shows (stored (mCfg 0x0000) { requestOf .setfSm with b := true }) = some ⟨none, none, none, none, [.rd .cfg 0x0000, .wr .cfg 0x0100]⟩ := by decide +kernel

theorem test_setfIm_clear :
    shows (stored (mCfg 0xFFFF) { requestOf .setfIm with b := false }) = some ⟨none, none, none, none, [.rd .cfg 0xFFFF, .wr .cfg 0xFDFF]⟩ := by decide +kernel

theorem test_setfIm_set :
    shows (stored (mCfg 0x0000) { requestOf .setfIm with b := true }) = some ⟨none, none, none, none, [.rd .cfg 0x0000, .wr .cfg 0x0200]⟩ := by decide +kernel

theorem test_setfPol_clear :
    shows (stored (mCfg 0xFFFF) { requestOf .setfPol with b := false }) = some ⟨none, none, none, none, [.rd .cfg 0xFFFF, .wr .cfg 0xFBFF]⟩ := by decide +kernel

theorem test_setfPol_unchanged :
    shows (stored (mCfg 0xFFFF) { requestOf .setfPol with b := true }) = some ⟨none, none, none, none, [.rd .cfg 0xFFFF, .wr .cfg 0xFFFF]⟩ := by decide +kernel

theorem test_setfSs_unguarded :
    shows (stored (mCfg 0x0080) { requestOf .setfSs with b := true }) = some ⟨none, none, none, none, [.rd .cfg 0x0080, .wr .cfg 0x8080]⟩ := by decide +kernel

theorem test_setfSs_clear :
    shows (stored (mCfg 0xFFFF) { requestOf .setfSs with b := false }) = some ⟨none, none, none, none, [.rd .cfg 0xFFFF, .wr .cfg 0x7FFF]⟩ := by decide +kernel

theorem test_trigss_asleep :
    shows (stored (mCfg 0x0180) (requestOf .trigss)) = some ⟨none, none, none, none, [.rd .cfg 0x0180, .wr .cfg 0x8180]⟩ := by decide +kernel

theorem test_trigss_awake :
    shows (stored (mCfg 0x0080) (requestOf .trigss)) = some ⟨none, none, none, none, [.rd .cfg 0x0080]⟩ := by decide +kernel

/-! ## Faults (L2.7) -/

theorem test_fault_illegal :
    faults (stored m25 { idleRequest with cmd := 0x42 }) = some ⟨⟨true, 1, ⟨0x42, none⟩⟩, false, 0, []⟩ := by decide +kernel

theorem test_fault_pack_range :
    faults (stored m25 { requestOf .pack with wid := 0 }) = some ⟨⟨true, 2, ⟨0x14, none⟩⟩, false, 0, []⟩ := by decide +kernel

theorem test_fault_unpack_range :
    faults (stored m25 { requestOf .unpack with a := 0xFFFF, off := 8, wid := 9 }) = some ⟨⟨true, 2, ⟨0x15, none⟩⟩, false, 0, []⟩ := by decide +kernel

theorem test_fault_encode_range :
    faults (stored m25 { requestOf .enct with t := 256 }) = some ⟨⟨true, 3, ⟨0x11, none⟩⟩, false, 0, []⟩ := by decide +kernel

theorem test_fault_encode_before_port :
    faults (asked [bad] { requestOf .setthHigh with t := 256 }) = some ⟨⟨true, 3, ⟨0x62, none⟩⟩, false, 0, []⟩ := by decide +kernel

theorem test_fault_read :
    faults (asked [bad] (requestOf .rdtempC)) = some ⟨⟨true, 4, ⟨0x40, some 0⟩⟩, false, 0, []⟩ := by decide +kernel

theorem test_fault_write :
    faults (asked [bad] { requestOf .wrregCfg with a := 0x1234 }) = some ⟨⟨true, 5, ⟨0x31, some 1⟩⟩, false, 0, []⟩ := by decide +kernel

theorem test_fault_rmw_read :
    faults (asked [bad] (requestOf .setfSm)) = some ⟨⟨true, 4, ⟨0x82, some 1⟩⟩, false, 0, []⟩ := by decide +kernel

theorem test_fault_rmw_write :
    faults (asked [good 0 0, bad] (requestOf .setfSm)) = some ⟨⟨true, 5, ⟨0x82, some 1⟩⟩, false, 0, [.rd .cfg 0x0000]⟩ := by decide +kernel

theorem test_fault_short_read :
    faults (asked [{ read := .short (some 0x0C), ack := true }] (requestOf .rdregTval)) = some ⟨⟨true, 4, ⟨0x20, some 0⟩⟩, false, 0, []⟩ := by decide +kernel

/-- DECT, then the host reads RW: ResultInvalid with latch number 0, and no data; then RT, which is valid (L2.7, R221). -/
theorem test_host_reads :
    ((after (step (stored m25 { requestOf .dect with a := 0x0C90 }))).bind fun t =>
      (after (step { t with moves := [.readLatch .rw] })).map fun u =>
        (u.fault.set, u.fault.cause, u.fault.info.code, u.hostData)) = some (true, 6, 0, none) ∧
    ((after (step (stored m25 { requestOf .dect with a := 0x0C90 }))).bind fun t =>
      (after (step { t with moves := [.readLatch .rt] })).map fun u => (u.fault.set, u.hostData)) =
        some (false, some (.temp (201 / 8))) := by decide +kernel

/-- A faulted block ignores the next command and keeps the first fault (R227, program P5's last line). -/
theorem test_faulted_ignores :
    step { stored m25 (requestOf .rdregTlow) with fault := { set := true, cause := 3, info := { code := 0x11, reg := none } } } =
      .next { stored m25 (requestOf .rdregTlow) with
        fault := { set := true, cause := 3, info := { code := 0x11, reg := none } } } := rfl

/-- Reset between the two halves of a setter: the read stays in the history and nothing is written (70_reset R252). -/
theorem test_reset_during :
    (after (core.run 3 { stored m25 (requestOf .setfSm) with moves := [.part, .part, .reset] })).map (fun t =>
      (t.history, t.pc, t.busy, t.half)) = some ([.rd .cfg 0x0080], 0, false, none) := by decide +kernel

/-- The register file changes between the two halves of a setter: the write carries the word read (70_reset R255). -/
theorem test_lost_update :
    (after (step { stored m25 { requestOf .setfSm with b := true } with
      port := { requestOf .setfSm with b := true }, busy := true, half := some 0, cfgl := 0x0080
      history := [.rd .cfg 0x0080, .wr .cfg 0xFFFF] })).map (fun t => (t.history, t.pc)) =
        some ([.rd .cfg 0x0080, .wr .cfg 0xFFFF, .wr .cfg 0x0180], 1) := by decide +kernel

/-- The block's turn, then the host reads the result (00_scope R6, R221). -/
theorem test_turn_then_read :
    (after (core.run 2 { stored m25 { requestOf .dect with a := 0x0C90 } with moves := [.turn, .readLatch .rt] })).map
      (fun t => (t.hostData, t.pc)) = some (some (.temp (201 / 8)), 1) := by decide +kernel

/-- A read while BUSY = 1 finds every valid bit 0 (10_state R25): ResultInvalid, and BUSY falls (R221, R224). -/
theorem test_read_while_busy :
    (after (core.run 2 { stored m25 (requestOf .dect) with moves := [.part, .readLatch .rt] })).map
      (fun t => (t.fault.cause, t.fault.info.code, t.busy, t.hostData, t.pc)) = some (6, 1, false, none, 0) := by
  decide +kernel

/-! ## The assembler (30_encoding R91 to R93) -/

theorem test_assemble_pack :
    assembleLine refParams "PACK A=0x0000, OFF=11, WID=2, N=2".toList =
      some [{ requestOf .pack with a := 0, off := 11, wid := 2, n := 2 }] := by decide +kernel

theorem test_assemble_register :
    assembleLine refParams "RDREG CFG".toList = some [requestOf .rdregCfg] ∧
    assembleLine refParams "WRREG TLOW, A=0x2580 ; low threshold".toList =
      some [{ requestOf .wrregTlow with a := 0x2580 }] := by decide +kernel

theorem test_assemble_temperature :
    assembleLine refParams "ENCT T=25.125".toList = some [{ requestOf .enct with t := 201 / 8 }] ∧
    assembleLine refParams "ENCT T=-65335/128".toList = some [{ requestOf .enct with t := -65335 / 128 }] := by
  decide +kernel

theorem test_assemble_rejects :
    assembleLine refParams "SETF.AL B=1".toList = none ∧ assembleLine refParams "SETF.SM B=2".toList = none ∧
    assembleLine refParams "WRREG CFG, A=0x10000".toList = none ∧ assembleLine refParams "SETF.IM B=OFF".toList = none ∧
    assembleLine refParams "UNPACK A=0, OFF=0".toList = none := by decide +kernel

/-! ## Witnesses: for each obligation with hypotheses a state that meets them, clause by clause -/

theorem witness_StepRunsTheDecodedCommand :
    (stored m25 (requestOf .pack)).moves = [] ∧ (stored m25 (requestOf .pack)).busy = false ∧
    (stored m25 (requestOf .pack)).fault.set = false ∧ (stored m25 (requestOf .pack)).prog[0]? = some (requestOf .pack) ∧
    decode (requestOf .pack).cmd = .ok .pack := by decide +kernel

theorem witness_IllegalCommandFaultsBeforeAnyEffect :
    (0x00 : Byte) ∉ mapWords ∧ (0x30 : Byte) ∉ mapWords ∧ (0x61 : Byte) ∉ mapWords ∧ (0x80 : Byte) ∉ mapWords ∧
    (0xFF : Byte) ∉ mapWords ∧
    (stored m25 idleRequest).prog[(stored m25 idleRequest).pc]? = some idleRequest ∧ idleRequest.cmd = 0x00 := by
  decide +kernel

/-- Done, a fault, and the end of the list. -/
theorem witness_IndexAdvancesOnDoneOnly :
    (∃ t, step ((stored m25 (requestOf .dect)).accept (requestOf .dect)) = .next t ∧ t.fault.set = false) ∧
    (∃ t, step (stored m25 (requestOf .dect)) = .next t ∧ (stored m25 (requestOf .dect)).pc < 1 ∧ t.fault.set = false) ∧
    (∃ t, step (stored m25 idleRequest) = .next t ∧ t.fault.set = true) ∧
    (∃ t, step State.reset = .next t ∧ State.reset.prog.length ≤ State.reset.pc) :=
  ⟨⟨_, rfl, rfl⟩, ⟨_, rfl, by decide, rfl⟩, ⟨_, rfl, rfl⟩, ⟨_, rfl, by decide⟩⟩

/-- Idle, inside a command, and faulted. -/
theorem witness_StepAlwaysAnswers :
    (State.reset.moves = [] ∧ State.reset.busy = false) ∧
    ((State.reset.accept (requestOf .dect)).moves = [] ∧ (State.reset.accept (requestOf .dect)).fault.set = false) ∧
    (State.reset.faulted 1 0 none [] 0).busy = false := ⟨⟨rfl, rfl⟩, ⟨rfl, rfl⟩, rfl⟩

/-- Accepted a legal word, and an illegal one. -/
theorem witness_BusyBlockFinishesItsCommand :
    ((State.reset.accept (requestOf .setfSm)).moves = [] ∧ (State.reset.accept (requestOf .setfSm)).busy = true ∧
      (State.reset.accept (requestOf .setfSm)).fault.set = false ∧ (State.reset.accept (requestOf .setfSm)).half = none ∧
      decode (State.reset.accept (requestOf .setfSm)).port.cmd = .ok .setfSm) ∧
    (State.reset.accept idleRequest).port.cmd ∉ mapWords := by decide +kernel

/-- Inside command `q` past its read, with the word `c` read and `a` the answer to come. -/
def halfway (c : Word) (a : PortAnswer) (q : Request) : State :=
  { asked [a] q with port := q, busy := true, half := some 0, cfgl := c, history := [.rd .cfg c] }

/-- Each of the three kinds of command, inside itself past its read. -/
theorem witness_halfway :
    [halfway 0 (good 0 0) (requestOf .setfSs), halfway 0 bad { requestOf .setfCr with n := 125 },
      halfway 0 bad { requestOf .setfCf with n := 4 }].map
        (fun s => (s.moves, s.busy, s.fault.set, s.half, s.port.cmd)) =
      [([], true, false, some 0, 0x86), ([], true, false, some 0, 0x81), ([], true, false, some 0, 0x85)] := by decide +kernel

/-- A bit setter, TRIGSS, and a setter of a code; a write taken, and one refused. -/
theorem witness_HalfwaySetterWritesFromCfgl :
    (∃ b : Nat, ((.setfSs, 0x86, b) : Instr × Byte × Nat) ∈
      [(.setfSm, 0x82, 8), (.setfIm, 0x83, 9), (.setfPol, 0x84, 10), (.setfSs, 0x86, 15)]) ∧
    ((halfway 0x0100 (good 0 0) (requestOf .trigss)).cfgl.getLsbD 8 = true ∧
      (halfway 0x0100 (good 0 0) (requestOf .trigss)).moves = [] ∧ (halfway 0x0100 (good 0 0) (requestOf .trigss)).busy = true ∧
      (halfway 0x0100 (good 0 0) (requestOf .trigss)).fault.set = false ∧
      (halfway 0x0100 (good 0 0) (requestOf .trigss)).half = some 0 ∧
      (halfway 0x0100 (good 0 0) (requestOf .trigss)).port.cmd = 0x90 ∧
      (halfway 0x0100 (good 0 0) (requestOf .trigss)).portAck .cfg 0x8100 = true) ∧
    (((halfway 0 bad { requestOf .setfCr with n := 125 }).port.n, true, true) ∈
        [((4000 : Int), false, false), (1000, false, true), (250, true, false), (125, true, true)] ∧
      (halfway 0 bad { requestOf .setfCr with n := 125 }).portAck .cfg 0x00C0 = false) ∧
    ((halfway 0 bad { requestOf .setfCf with n := 4 }).port.n, true, true) ∈
      [((1 : Int), false, false), (2, false, true), (3, true, false), (4, true, true)] :=
  ⟨⟨15, by decide⟩, by decide +kernel, by decide +kernel, by decide +kernel⟩

/-- The three schedules before a setter, which is split, and DECT, which is not. -/
theorem witness_PartsMakeUpTheCommand :
    ({ stored m25 (requestOf .setfSm) with moves := [.part, .turn] } : State).moves = .part :: .turn :: [] ∧
    ({ stored m25 (requestOf .setfSm) with moves := [.part, .part, .part] } : State).moves = .part :: .part :: .part :: [] ∧
    (stored m25 (requestOf .setfSm)).busy = false ∧ (stored m25 (requestOf .setfSm)).fault.set = false ∧
    (stored m25 (requestOf .setfSm)).prog[0]? = some (requestOf .setfSm) ∧ decode (requestOf .setfSm).cmd = .ok .setfSm ∧
    (stored m25 (requestOf .dect)).prog[0]? = some (requestOf .dect) ∧ decode (requestOf .dect).cmd = .ok .dect := by
  decide +kernel

theorem witness_FinalStatesWaitAndFaultIsNeverFinal :
    ({ stored m25 idleRequest with pc := 1 } : State).final ∧ ({ stored m25 idleRequest with pc := 1 } : State).moves = [] ∧
    (State.reset.faulted 1 0 none [] 0).fault.set = true := by decide +kernel

theorem witness_StepKeepsParametersAndCommandList : ∃ t, step (stored m25 (requestOf .trigss)) = .next t := ⟨_, rfl⟩

theorem witness_StepOnlyAppendsToTheHistory : ∃ t, step (stored m25 (requestOf .rdregCfg)) = .next t := ⟨_, rfl⟩

theorem witness_DectDecodesTheRawWord :
    (stored m25 { requestOf .dect with a := 0x7FFF }).prog.all (fun q => decide (q.a.toNat < 32768)) = true ∧
    ({ State.reset with port := { idleRequest with a := 0x7FFF } } : State).port.a.toNat < 32768 ∧
    32768 ≤ ({ State.reset with port := { idleRequest with a := 0x8000 } } : State).port.a.toNat := by decide +kernel

theorem witness_DectIsNotTwosComplement : 32768 ≤ (0x8000#16).toNat ∧ 32768 ≤ (0xFFFF#16).toNat := by decide

/-- Both ends of the range, and the first quotient past each. -/
theorem witness_EnctTruncatesOrFaults :
    truncates ((-256 : Rat) * 128) (-32768) ∧ truncates ((32767 / 128 : Rat) * 128) 32767 ∧
    truncates ((256 : Rat) * 128) 32768 ∧ truncates ((-32769 / 128 : Rat) * 128) (-32769) ∧
    truncates ((-1 / 256 : Rat) * 128) 0 := by decide +kernel

/-- The two words after which ENCT answers another word, their neighbours, and the two directions of the second half. -/
theorem witness_EnctAfterDectRoundTrip :
    ({ State.reset with port := { idleRequest with t := -32767 / 128 } } : State).port.t = decodeTemp 0x8000#16 ∧
    ({ State.reset with port := { idleRequest with t := -256 } } : State).port.t = decodeTemp 0x8001#16 ∧
    ({ State.reset with port := { idleRequest with t := 32767 / 128 } } : State).port.t = decodeTemp 0x7FFF#16 ∧
    ({ State.reset with port := { idleRequest with t := -32769 / 128 } } : State).port.t = decodeTemp 0x8002#16 ∧
    encodeTemp (32767 / 128) = some 0x7FFF#16 ∧ encodeTemp (-25 / 16) = some 0xFF38#16 ∧ (-25 / 16 : Rat) < 0 := by
  decide +kernel

theorem witness_FahrenheitConversions :
    (stored m25 (requestOf .c2f)).params.numerics = .reference ∧ State.reset.params.numerics = .implementation ∧
    (∃ t, exec .c2f (stored m25 (requestOf .c2f)) = .next t) ∧ (∃ t, exec .f2c (stored m25 (requestOf .f2c)) = .next t) :=
  ⟨rfl, rfl, ⟨_, rfl⟩, ⟨_, rfl⟩⟩

/-- The narrowest field at the top, the widest, one that leaves the word and one with no bits. -/
theorem witness_PackReplacesOneField :
    ((1 ≤ (1 : BitVec 5).toNat ∧ (15 : BitVec 4).toNat + (1 : BitVec 5).toNat ≤ 16) ∧
     (1 ≤ (16 : BitVec 5).toNat ∧ (0 : BitVec 4).toNat + (16 : BitVec 5).toNat ≤ 16)) ∧
    16 < (15 : BitVec 4).toNat + (2 : BitVec 5).toNat ∧ (0 : BitVec 5).toNat = 0 := by decide

theorem witness_UnpackExtractsOneField :
    (1 ≤ (idleRequest.wid + 1).toNat ∧ idleRequest.off.toNat + (idleRequest.wid + 1).toNat ≤ 16) ∧
    idleRequest.wid.toNat = 0 ∧ 16 < (0 : BitVec 4).toNat + (17 : BitVec 5).toNat := by decide

theorem witness_PackUnpackLaws :
    (1 ≤ (Field.mk 15 1).wid ∧ (Field.mk 15 1).off + (Field.mk 15 1).wid ≤ 16 ∧ 1 < 2 ^ (Field.mk 15 1).wid) ∧
    (1 ≤ (Field.mk 0 16).wid ∧ (Field.mk 0 16).off + (Field.mk 0 16).wid ≤ 16 ∧ 65535 < 2 ^ (Field.mk 0 16).wid) := by
  decide

/-- A read that is answered and one that fails: for RDREG, RDTEMP, GETTH, GETF and the read half of a setter. -/
theorem witness_reads_of_the_port :
    (asked [good 0x0C 0x90] idleRequest).portRead .tval = some 0x0C90 ∧
    (asked [good 0x00 0x00] idleRequest).portRead .thigh = some 0x0000 ∧
    (asked [good 0xFF 0xFF] idleRequest).portRead .cfg = some 0xFFFF ∧
    (asked [bad] idleRequest).portRead .tlow = none ∧ (asked [bad] idleRequest).portRead .cfg = none := by decide +kernel

theorem witness_RdregReadsARegister :
    (Instr.rdregThigh, RegAddr.thigh, (0x23 : Byte), (3 : BitVec 2)) ∈
      [(.rdregTval, .tval, 0x20, 0), (.rdregCfg, .cfg, 0x21, 1), (.rdregTlow, .tlow, 0x22, 2), (.rdregThigh, .thigh, 0x23, 3)] ∧
    (stored m25 idleRequest).portRead .thigh = some 0x2800 ∧ (asked [bad] idleRequest).portRead .thigh = none := by
  decide +kernel

theorem witness_WrregWritesARegister :
    (stored m25 idleRequest).portAck .cfg 0 = true ∧ (asked [bad] idleRequest).portAck .cfg 0xFFFF = false := by
  decide +kernel

theorem witness_TemperatureAndThresholdReads :
    (stored m25 idleRequest).portRead .tlow = some 0x2580 ∧ (asked [bad] idleRequest).portRead .tval = none := by
  decide +kernel

/-- In range and at both ends of it with a write taken and a write refused, and the first quotient past each end. -/
theorem witness_ThresholdWritesEncodeFirst :
    truncates ((75 : Rat) * 128) 9600 ∧ (stored m25 idleRequest).portAck .tlow (BitVec.ofInt 16 9600) = true ∧
    (asked [bad] idleRequest).portAck .tlow (BitVec.ofInt 16 9600) = false ∧
    truncates ((32767 / 128 : Rat) * 128) 32767 ∧ truncates ((-256 : Rat) * 128) (-32768) ∧
    (stored m25 idleRequest).portAck .thigh (BitVec.ofInt 16 32767) = true ∧
    (stored m25 idleRequest).portAck .tlow (BitVec.ofInt 16 (-32768)) = true ∧
    (asked [bad] idleRequest).portAck .thigh (BitVec.ofInt 16 32767) = false ∧
    (asked [bad] idleRequest).portAck .tlow (BitVec.ofInt 16 (-32768)) = false ∧
    truncates ((256 : Rat) * 128) 32768 ∧ truncates ((-32769 / 128 : Rat) * 128) (-32769) := by decide +kernel

/-- Both bytes, one or none, a failure; a reader of each register; the discarding setters at the ends of their ranges. -/
theorem witness_ReadsComposeBytesOrFault :
    (asked [good 0xFF 0x38] idleRequest).bank = .oracle (good 0xFF 0x38 :: []) ∧ (good 0xFF 0x38).read = .bytes 0xFF 0x38 ∧
    (asked [bad, bad] idleRequest).bank = .oracle (bad :: [bad]) ∧ bad.read = .failed ∧
    ({ read := .short none, ack := false } : PortAnswer).read = .short none ∧
    (portPattern .rdtempF).head? = some (false, .tval) ∧ (portPattern .trigss).head? = some (false, .cfg) ∧
    (portPattern .getthLowC).head? = some (false, .tlow) ∧ (portPattern .rdregThigh).head? = some (false, .thigh) ∧
    (portPattern .setfCf).head? = some (false, .cfg) ∧ (125 : Int) ∈ [4000, 1000, 250, 125] ∧
    ((.thigh, 3) : RegAddr × BitVec 2) ∈ [(.tval, 0), (.cfg, 1), (.tlow, 2), (.thigh, 3)] := by decide +kernel

/-- One read, one write, both, and none. -/
theorem witness_BusFramesAreMsbFirst :
    (∃ t, exec .rdregTlow (stored m25 idleRequest) = .next t ∧ t.history = [.rd .tlow 0x2580]) ∧
    (∃ t, exec .wrregThigh (stored m25 idleRequest) = .next t ∧ t.history = [.wr .thigh 0]) ∧
    (∃ t, exec .setfSm (stored m25 idleRequest) = .next t ∧ t.history = [.rd .cfg 0x0080, .wr .cfg 0x0080]) ∧
    (∃ t, exec .rdregTval (asked [bad] idleRequest) = .next t ∧ t.history = []) :=
  ⟨⟨_, rfl, by decide +kernel⟩, ⟨_, rfl, by decide +kernel⟩, ⟨_, rfl, by decide +kernel⟩, ⟨_, rfl, by decide +kernel⟩⟩

/-- GETF: a word read, and a failed read. -/
theorem witness_GetfReadsOneBit :
    (Instr.getfSs, 15, (0x76 : Byte)) ∈
      [(.getfAl, 5, 0x70), (.getfSm, 8, 0x72), (.getfIm, 9, 0x73), (.getfPol, 10, 0x74), (.getfSs, 15, 0x76)] ∧
    (stored (mCfg 0x8180) idleRequest).portRead .cfg = some 0x8180 ∧ (asked [bad] idleRequest).portRead .cfg = none := by
  decide +kernel

/-- GETF.CR and GETF.CF: each of the four codes can be read. -/
theorem witness_GetfCrReadsMilliseconds :
    (stored (mCfg 0x0000) idleRequest).portRead .cfg = some 0x0000 ∧
    (stored (mCfg 0x0840) idleRequest).portRead .cfg = some 0x0840 ∧
    (stored (mCfg 0x1080) idleRequest).portRead .cfg = some 0x1080 ∧
    (stored (mCfg 0x18C0) idleRequest).portRead .cfg = some 0x18C0 ∧ (asked [bad] idleRequest).portRead .cfg = none := by
  decide +kernel

theorem witness_GetfCfReadsTheCount :
    (stored (mCfg 0x1800) idleRequest).portRead .cfg = some 0x1800 ∧ (asked [bad] idleRequest).portRead .cfg = none := by
  decide +kernel

/-- A read-modify-write whose read fails, whose write is taken, and whose write fails. -/
theorem witness_SetfWritesOneBit :
    (asked [bad] idleRequest).portRead .cfg = none ∧
    ((asked [good 0 0, good 0 0] idleRequest).portRead .cfg = some 0 ∧
      ((asked [good 0 0, good 0 0] idleRequest).completed [.rd .cfg 0]).portAck .cfg 0x0100 = true) ∧
    ((asked [good 0 0, bad] idleRequest).portRead .cfg = some 0 ∧
      ((asked [good 0 0, bad] idleRequest).completed [.rd .cfg 0]).portAck .cfg 0x0100 = false) := by decide +kernel

theorem witness_SetfCrStoresTheCodeOrDiscards :
    (2 : Int) ∉ [4000, 1000, 250, 125] ∧ (0 : Int) ∉ [4000, 1000, 250, 125] ∧
    ((125 : Int), true, true) ∈ [(4000, false, false), (1000, false, true), (250, true, false), (125, true, true)] ∧
    ({ State.reset with port := { idleRequest with n := 125 } } : State).port.n = 125 := by decide +kernel

theorem witness_SetfCfStoresTheCountOrDiscards :
    (0 : Int) < 1 ∧ (4 : Int) < 5 ∧
    ((1 : Int), false, false) ∈ [(1, false, false), (2, false, true), (3, true, false), (4, true, true)] ∧
    ((4 : Int), true, true) ∈ [(1, false, false), (2, false, true), (3, true, false), (4, true, true)] ∧
    ({ State.reset with port := { idleRequest with n := 4 } } : State).port.n = 4 := by decide +kernel

/-- TRIGSS: a failed read; awake; asleep with a write taken; asleep with a write refused. -/
theorem witness_TrigssWritesOnlyInSleepMode :
    (asked [bad] idleRequest).portRead .cfg = none ∧
    ((stored (mCfg 0xFEFF) idleRequest).portRead .cfg = some 0xFEFF ∧ (0xFEFF#16).getLsbD 8 = false) ∧
    ((asked [good 1 0, good 0 0] idleRequest).portRead .cfg = some 0x0100 ∧ (0x0100#16).getLsbD 8 = true ∧
      ((asked [good 1 0, good 0 0] idleRequest).completed [.rd .cfg 0x0100]).portAck .cfg 0x8100 = true) ∧
    ((asked [good 1 0, bad] idleRequest).portRead .cfg = some 0x0100 ∧
      ((asked [good 1 0, bad] idleRequest).completed [.rd .cfg 0x0100]).portAck .cfg 0x8100 = false) := by decide +kernel

theorem witness_OnlyWrregChangesAlAndUnassignedBits :
    Instr.trigss ≠ .wrregCfg ∧
    ((after (exec .trigss (stored (mCfg 0x0100) idleRequest))).map State.history =
      some ((stored (mCfg 0x0100) idleRequest).history ++ [.rd .cfg 0x0100, .wr .cfg 0x8100])) ∧
    Event.wr .cfg 0x8100 ∈ [Event.rd .cfg 0x0100, .wr .cfg 0x8100] := by decide +kernel

/-- A setter, and a later state with the same bank whose history has one more read of CFG. -/
theorem witness_SetterIsReadBackUnderTheStoreOracle :
    (stored m25 idleRequest).bank = .store m25 ∧
    (∃ t u : State, exec .setfSm (stored m25 idleRequest) = .next t ∧ u.bank = t.bank ∧
      u.history = t.history ++ [.rd .cfg 0] ∧ ∀ w, Event.wr .cfg w ∉ [Event.rd .cfg 0]) ∧
    (∃ t, exec .setfCr { stored m25 idleRequest with port := { idleRequest with n := 125 } } = .next t) ∧
    (125 : Int) ∈ [4000, 1000, 250, 125] ∧
    (∃ t, exec .setfCf { stored m25 idleRequest with port := { idleRequest with n := 4 } } = .next t) :=
  ⟨rfl, ⟨_, { stored m25 idleRequest with history := _ ++ [.rd .cfg 0] }, rfl, rfl, rfl, by simp⟩, ⟨_, rfl⟩, by decide,
    ⟨_, rfl⟩⟩

theorem witness_CommandsCompleteOrFaultPrecisely : State.reset.fault.set = false := rfl

/-- A command that completes with a result, one that completes with none, and one that faults. -/
theorem witness_OnlyTheResultLatchIsValid :
    (∃ t, exec .dect State.reset = .next t ∧ t.pc = State.reset.pc + 1) ∧
    (∃ t, exec .setfCf State.reset = .next t ∧ t.pc = State.reset.pc + 1) ∧
    (∃ t, exec .unpack State.reset = .next t ∧ t.pc = State.reset.pc) := ⟨⟨_, rfl, rfl⟩, ⟨_, rfl, rfl⟩, ⟨_, rfl, rfl⟩⟩

/-- All events, a discarded setter, and TRIGSS awake. -/
theorem witness_PortEventsFollowTheOpcodeMap :
    (∃ t, exec .setfSm (stored m25 idleRequest) = .next t ∧ t.pc = (stored m25 idleRequest).pc + 1) ∧
    (∃ t, exec .setfCr (stored m25 idleRequest) = .next t ∧ t.pc = (stored m25 idleRequest).pc + 1) ∧
    (∃ t, exec .trigss (stored m25 idleRequest) = .next t ∧ t.pc = (stored m25 idleRequest).pc + 1 ∧
      t.history = [.rd .cfg 0x0080]) := ⟨⟨_, rfl, rfl⟩, ⟨_, rfl, rfl⟩, ⟨_, rfl, rfl, by decide +kernel⟩⟩

/-- A request that differs from the sampled one on a port ENCT does not read. -/
theorem witness_UnreadOperandPortsAreIgnored :
    (∀ p ∈ Instr.operands .enct, samePort State.reset.port { idleRequest with a := 0xFFFF } p) ∧
    (∃ t, exec .enct State.reset = .next t) := by
  refine ⟨fun p h => ?_, ⟨_, rfl⟩⟩
  simp only [Instr.operands, List.mem_singleton] at h
  subst h
  rfl

theorem witness_ResultsDoNotDependOnLatches :
    (∃ t, exec .trigss (stored m25 idleRequest) = .next t) ∧
    (∃ t, exec .trigss { stored m25 idleRequest with cfgl := 0xFFFF, rn := { value := 7, valid := true } } = .next t) :=
  ⟨⟨_, rfl⟩, ⟨_, rfl⟩⟩

theorem witness_StoreOracleIsANormativeOracle :
    (stored m25 idleRequest).bank = .store m25 ∧ ∃ t, exec .setfSm (stored m25 idleRequest) = .next t := ⟨rfl, ⟨_, rfl⟩⟩

theorem witness_StoreImageChangesOnlyWhereWritten :
    (stored m25 idleRequest).bank = .store m25 ∧ ∃ t, exec .wrregTlow (stored m25 idleRequest) = .next t := ⟨rfl, ⟨_, rfl⟩⟩

/-- A faulted state with nothing pending, with a latch read pending, and with a reset pending. -/
theorem witness_FirstFaultStaysUntilReset :
    ((State.reset.faulted 1 0 none [] 0).fault.set = true ∧ (State.reset.faulted 1 0 none [] 0).moves = []) ∧
    (∃ t, step { State.reset.faulted 1 0 none [] 0 with moves := [.readLatch .rn] } = .next t) ∧
    (∃ t, step { State.reset.faulted 1 0 none [] 0 with moves := [.reset] } = .next t) :=
  ⟨⟨rfl, rfl⟩, ⟨_, rfl⟩, ⟨_, rfl⟩⟩

/-- Each latch valid, and each latch invalid. -/
theorem witness_HostReadOfALatch :
    ({ State.reset with rw := { value := 1, valid := true } } : State).validBit .rw = true ∧
    ({ State.reset with rt := { value := 1, valid := true } } : State).validBit .rt = true ∧
    ({ State.reset with rn := { value := 1, valid := true } } : State).validBit .rn = true ∧
    ({ State.reset with rb := { value := true, valid := true } } : State).validBit .rb = true ∧
    State.reset.validBit .rw = false ∧ State.reset.validBit .rt = false ∧ State.reset.validBit .rn = false ∧
    State.reset.validBit .rb = false ∧
    ({ State.reset with moves := [.readLatch .rb] } : State).moves = .readLatch .rb :: [] ∧
    (LatchId.rb, (3 : Byte)) ∈ [(.rw, 0), (.rt, 1), (.rn, 2), (.rb, 3)] := by decide +kernel

/-- A command with a result in the schedule, followed by a read of it. -/
theorem witness_HostReadsTheResultOfACommand :
    ({ stored m25 (requestOf .rdtempC) with moves := [.turn, .readLatch .rt] } : State).moves = .turn :: .readLatch .rt :: [] ∧
    (stored m25 (requestOf .rdtempC)).busy = false ∧ (stored m25 (requestOf .rdtempC)).fault.set = false ∧
    (stored m25 (requestOf .rdtempC)).prog[0]? = some (requestOf .rdtempC) ∧
    decode (requestOf .rdtempC).cmd = .ok .rdtempC ∧ Instr.rdtempC.result = some .rt ∧
    (∃ t, exec .rdtempC { stored m25 (requestOf .rdtempC) with moves := [], port := requestOf .rdtempC } = .next t ∧
      t.fault.set = false) := ⟨rfl, rfl, rfl, rfl, by decide, rfl, ⟨_, rfl, rfl⟩⟩

theorem witness_ResetInputRestoresTheBlock :
    ({ State.reset with moves := [.reset] } : State).moves = .reset :: [] := rfl

/-- A setter abandoned after its read, and one abandoned before it. -/
theorem witness_ResetDuringACommandAbandonsIt :
    ({ stored m25 (requestOf .setfSm) with moves := [.part, .part, .reset] } : State).moves =
      List.replicate (1 + 1) .part ++ .reset :: [] ∧
    ({ stored m25 (requestOf .setfSm) with moves := [.part, .reset] } : State).moves =
      List.replicate (0 + 1) .part ++ .reset :: [] ∧
    (stored m25 (requestOf .setfSm)).busy = false ∧ (stored m25 (requestOf .setfSm)).fault.set = false ∧
    (stored m25 (requestOf .setfSm)).prog[0]? = some (requestOf .setfSm) ∧
    decode (requestOf .setfSm).cmd = .ok .setfSm ∧
    (∃ t, exec .setfSm { stored m25 (requestOf .setfSm) with moves := [], port := requestOf .setfSm } = .next t) :=
  ⟨rfl, rfl, rfl, rfl, rfl, rfl, ⟨_, rfl⟩⟩

/-- An idle block, one that has accepted a command, and one halfway through a setter. -/
theorem witness_StepKeepsTheInvariant :
    ((stored m25 (requestOf .setfSm)).Inv ∧ ∃ t, step (stored m25 (requestOf .setfSm)) = .next t) ∧
    (((stored m25 (requestOf .setfSm)).accept (requestOf .setfSm)).Inv ∧
      ∃ t, step ((stored m25 (requestOf .setfSm)).accept (requestOf .setfSm)) = .next t) ∧
    ((halfway 0x0080 bad (requestOf .setfSm)).Inv ∧ ∃ t, step (halfway 0x0080 bad (requestOf .setfSm)) = .next t) :=
  ⟨⟨by decide +kernel, ⟨_, rfl⟩⟩, ⟨by decide +kernel, ⟨_, rfl⟩⟩, ⟨by decide +kernel, ⟨_, rfl⟩⟩⟩

/-- The preset behind one command already done. -/
theorem witness_PresetUnderTheStoreOracle :
    ({ stored m25 idleRequest with prog := [idleRequest] ++ applyDef refParams ++ [idleRequest], pc := 1 } : State).prog =
      [idleRequest] ++ applyDef ({ stored m25 idleRequest with pc := 1 } : State).params ++ [idleRequest] ∧
    ({ stored m25 idleRequest with pc := 1 } : State).pc = [idleRequest].length ∧
    (stored m25 idleRequest).bank = .store m25 ∧ (stored m25 idleRequest).moves = [] ∧
    (stored m25 idleRequest).busy = false ∧ (stored m25 idleRequest).fault.set = false :=
  ⟨rfl, rfl, rfl, rfl, rfl, rfl⟩

end Sys2Proof.Tests
end

section
/-! PROOF. Scope (00_scope): every step answers, every command completes or faults precisely, what a command does depends on the
register bank only through its answers, and the host reads what a command computed. -/

namespace Sys2Proof.Machine

/-! ## How a command leaves the block -/

@[simp] theorem State.faulted_fault_set (s : State) (c : BitVec 4) (code : Byte) (reg : Option (BitVec 2)) (es : List Event)
    (k : Nat) : (s.faulted c code reg es k).fault.set = true := by
  cases h : s.fault.set <;> simp [State.faulted, h]

/-- A block with FAULT clear takes the fault (60_exceptions R224, R227). -/
theorem State.faulted_fault_of_clear {s : State} (hf : s.fault.set = false) (c : BitVec 4) (code : Byte)
    (reg : Option (BitVec 2)) (es : List Event) (k : Nat) :
    (s.faulted c code reg es k).fault = { set := true, cause := c, info := { code := code, reg := reg } } := by
  simp [State.faulted, hf]

theorem Result.busy_eq_false {i : Instr} {s t : State} (h : Result i s t) : t.busy = false := by cases h <;> rfl

theorem Result.moves_eq {i : Instr} {s t : State} (h : Result i s t) : t.moves = s.moves := by cases h <;> rfl

/-- A command with a result that leaves FAULT clear leaves its result's latch valid (10_state R25, 30_encoding R87). -/
theorem Result.validBit_of_no_fault {i : Instr} {s t : State} {l : LatchId} (h : Result i s t) (hl : i.result = some l)
    (hf : t.fault.set = false) : t.validBit l = true := by
  cases h with
  | word _ _ hr | temp _ _ hr | int _ _ hr | bool _ _ hr =>
    obtain rfl := Option.some.inj (hl.symm.trans hr)
    rfl
  | silent _ _ hr => simp [hr] at hl
  | fault => simp at hf

/-- A turn leaves the block idle, unless a faulted one was met busy (10_state R29). -/
theorem Turn.busy_eq_false {s t : State} (h : Turn s t) (hs : s.busy = false ∨ s.fault.set = false) : t.busy = false := by
  cases h with
  | waits h =>
    rcases h with hf | ⟨hb, -⟩
    · simpa [hf] using hs
    · exact hb
  | runs q i _ _ _ _ he => exact (result_of_exec he).busy_eq_false
  | illegal => rfl
  | writes i before f v => rcases writeBack_cases s i before f v with ⟨-, e⟩ | ⟨-, e⟩ <;> rw [e] <;> rfl

/-! ## The same command under another schedule and another bank -/

/-- The state with the schedule `m` and the register bank `b` in place of its own. -/
def State.under (m : List Move) (b : Bank) (s : State) : State := { s with moves := m, bank := b }

/-- At `s` the bank `b` answers a command that uses register `r` alone as the machine's own bank does: its read, its write, and
its write after a read. -/
structure AnswersAlike (b : Bank) (r : RegAddr) (s : State) : Prop where
  read : ({ s with bank := b } : State).portRead r = s.portRead r
  ack (w : Word) : ({ s with bank := b } : State).portAck r w = s.portAck r w
  ackAfterRead (x w : Word) : (({ s with bank := b } : State).completed [.rd r x]).portAck r w =
    (s.completed [.rd r x]).portAck r w

/-- The runs from `s` to `t` and from `s.under m b` to `u` are the same but for schedule and bank: each bank has given as many
answers, and `u` is otherwise `t`. -/
def RunsAlike (m : List Move) (b : Bank) (s t u : State) : Prop :=
  ∃ k, t.bank = s.bank.advance k ∧ u = t.under m (b.advance k)

/-- An operation that neither reads nor changes schedule and bank. -/
abbrev PortBlind (f : State → State) : Prop := ∀ (s : State) (m : List Move) (b : Bank), f (s.under m b) = (f s).under m b

theorem PortBlind.bank_eq {f : State → State} (hf : PortBlind f) (s : State) : (f s).bank = s.bank := by
  have h := congrArg State.bank (hf s s.moves s.bank)
  exact h

variable {m : List Move} {b : Bank} {r : RegAddr} (s : State) {i : Instr}

theorem RunsAlike.compute {f : State → State} (hf : PortBlind f) :
    RunsAlike m b s (compute f s) (compute f (s.under m b)) := by
  refine ⟨0, ?_, ?_⟩ <;> rw [Bank.advance_zero]
  · exact hf.bank_eq s.start
  · exact congrArg State.done (hf s.start m b)

theorem RunsAlike.commandFault (c : Cause) :
    RunsAlike m b s (s.start.commandFault i c) ((s.under m b).start.commandFault i c) :=
  ⟨0, (Bank.advance_zero _).symm, by rw [Bank.advance_zero]; rfl⟩

theorem RunsAlike.field {f : State → State} (hf : PortBlind f) :
    RunsAlike m b s (fieldCommand i f s) (fieldCommand i f (s.under m b)) := by
  show RunsAlike m b s _ (if fieldInRange s.port.field then _ else _)
  unfold fieldCommand
  split
  · exact .compute s hf
  · exact .commandFault s _

theorem RunsAlike.read (h : AnswersAlike b r s) {f : Word → State → State} (hf : ∀ w, PortBlind (f w)) :
    RunsAlike m b s (readCommand i r f s) (readCommand i r f (s.under m b)) := by
  have hr : (s.under m b).portRead r = s.portRead r := h.read
  simp only [readCommand, memRead, portRead_start, hr]
  cases s.portRead r with
  | some w => exact ⟨1, (hf w).bank_eq _, congrArg State.done (hf w (s.start.logged (.rd r w)) m (b.advance 1))⟩
  | none => exact ⟨1, rfl, rfl⟩

theorem RunsAlike.write (h : AnswersAlike b r s) (w : Word) :
    RunsAlike m b s (writeCommand i r w s) (writeCommand i r w (s.under m b)) := by
  have ha : (s.under m b).start.portAck r w = s.start.portAck r w := h.ack w
  unfold writeCommand memWrite
  rw [ha]
  cases s.start.portAck r w <;> exact ⟨1, rfl, rfl⟩

theorem RunsAlike.threshold (h : AnswersAlike b r s) (t : Temp) :
    RunsAlike m b s (thresholdCommand i r t s) (thresholdCommand i r t (s.under m b)) := by
  unfold thresholdCommand
  cases encodeTemp t with
  | some w => exact .write s h w
  | none => exact .commandFault s _

theorem RunsAlike.writeBack (h : AnswersAlike b .cfg s) (w : Word) (f : ConfigField) (v : Int) :
    RunsAlike m b s (writeBack i s.cfgl f v (afterRead w s)) (writeBack i s.cfgl f v (afterRead w (s.under m b))) := by
  have ha := h.ackAfterRead w (packField w f.field v)
  rcases writeBack_afterRead_cases s i w f v with ⟨hs, e⟩ | ⟨hs, e⟩ <;>
    rcases writeBack_afterRead_cases (s.under m b) i w f v with ⟨hu, e'⟩ | ⟨hu, e'⟩
  · exact ⟨2, congrArg State.bank e, e'.trans (by rw [e]; rfl)⟩
  · exact absurd (hu.symm.trans (ha.trans hs)) (by decide)
  · exact absurd (hu.symm.trans (ha.trans hs)) (by decide)
  · exact ⟨2, congrArg State.bank e, e'.trans (by rw [e]; rfl)⟩

theorem RunsAlike.setField (h : AnswersAlike b .cfg s) (f : ConfigField) (v : Int) :
    RunsAlike m b s (setFieldCommand i f v s) (setFieldCommand i f v (s.under m b)) := by
  have hr : (s.under m b).portRead .cfg = s.portRead .cfg := h.read
  simp only [setFieldCommand, memRead, portRead_start, hr]
  cases s.portRead .cfg with
  | some w => exact .writeBack s h w f v
  | none => exact ⟨1, rfl, rfl⟩

theorem RunsAlike.setLogical (h : AnswersAlike b .cfg s) (f : ConfigField) (code : Option Int) :
    RunsAlike m b s (setLogicalCommand i f code s) (setLogicalCommand i f code (s.under m b)) := by
  cases code with
  | some v => exact .setField s h f v
  | none => exact .compute s (f := id) fun _ _ _ => rfl

theorem RunsAlike.trigger (h : AnswersAlike b .cfg s) :
    RunsAlike m b s (triggerCommand i s) (triggerCommand i (s.under m b)) := by
  have hr : (s.under m b).portRead .cfg = s.portRead .cfg := h.read
  simp only [triggerCommand, memRead, portRead_start, hr]
  cases s.portRead .cfg with
  | some w =>
    by_cases hw : unpackBool w .sm = true
    · simp only [if_pos hw]; exact .writeBack s h w .ss 1
    · simp only [if_neg hw]; exact ⟨1, rfl, rfl⟩
  | none => exact ⟨1, rfl, rfl⟩

/-- A command uses one register at most (30_encoding R87). -/
theorem portPattern_register (i : Instr) : ∃ r, ∀ a q, (a, q) ∈ portPattern i → q = r :=
  ⟨((portPattern i).head?.map Prod.snd).getD .cfg, by cases i <;> simp [portPattern]⟩

/-- What a command does depends on the bank only through the answers to its own transactions, and on the schedule not at all. -/
theorem exec_runsAlike (h : ∀ a r, (a, r) ∈ portPattern i → AnswersAlike b r s) :
    ∃ t u, exec i s = .next t ∧ exec i (s.under m b) = .next u ∧ RunsAlike m b s t u := by
  cases i
  case dect | c2f | f2c => exact ⟨_, _, rfl, rfl, .compute s fun _ _ _ => rfl⟩
  case enct =>
    refine ⟨_, _, rfl, rfl, ?_⟩
    show RunsAlike m b s _ (match encodeTemp s.port.t with | some w => _ | none => _)
    cases encodeTemp s.port.t with
    | some w => exact .compute s (f := State.setRW w) fun _ _ _ => rfl
    | none => exact .commandFault s _
  case pack | unpack => exact ⟨_, _, rfl, rfl, .field s fun _ _ _ => rfl⟩
  case rdregTval | rdregCfg | rdregTlow | rdregThigh | rdtempC | rdtempF | getthLowC | getthLowF | getthHighC | getthHighF
    | getfAl | getfCr | getfSm | getfIm | getfPol | getfCf | getfSs =>
    exact ⟨_, _, rfl, rfl, .read s (h _ _ (.head _)) fun _ _ _ _ => rfl⟩
  case wrregCfg | wrregTlow | wrregThigh => exact ⟨_, _, rfl, rfl, .write s (h _ _ (.head _)) _⟩
  case setthLow | setthHigh => exact ⟨_, _, rfl, rfl, .threshold s (h _ _ (.head _)) _⟩
  case setfCr | setfCf => exact ⟨_, _, rfl, rfl, .setLogical s (h _ _ (.head _)) _ _⟩
  case setfSm | setfIm | setfPol | setfSs => exact ⟨_, _, rfl, rfl, .setField s (h _ _ (.head _)) _ _⟩
  case trigss => exact ⟨_, _, rfl, rfl, .trigger s (h _ _ (.head _))⟩

/-- The same, from what the command answered. -/
theorem exec_under {s t : State} (m : List Move) (h : ∀ a r, (a, r) ∈ portPattern i → AnswersAlike b r s)
    (he : exec i s = .next t) :
    ∃ k, t.bank = s.bank.advance k ∧ exec i (s.under m b) = .next (t.under m (b.advance k)) := by
  obtain ⟨t', u, ht, hu, k, hk, rfl⟩ := exec_runsAlike s (m := m) h
  rw [he] at ht
  injection ht with ht
  exact ⟨k, ht ▸ hk, ht ▸ hu⟩

/-- A command run under another schedule does the same (log 9). -/
theorem exec_moves {s t : State} (m : List Move) (he : exec i s = .next t) :
    exec i { s with moves := m } = .next { t with moves := m } := by
  obtain ⟨k, hk, hu⟩ := exec_under (b := s.bank) m (fun _ _ _ => ⟨rfl, fun _ => rfl, fun _ _ => rfl⟩) he
  rw [← hk] at hu
  exact hu

/-! ## The store oracle -/

/-- The answer the store oracle gives at `s` to a read of `r`, and to any write. -/
def storeAnswer (r : RegAddr) (s : State) : PortAnswer := { read := s.readAnswer r, ack := true }

/-- Listed twice, once for each transaction a command can make, that answer stands for the store oracle. -/
theorem answersAlike_store {m0 : Image} (h : s.bank = .store m0) :
    AnswersAlike (.oracle [storeAnswer r s, storeAnswer r s]) r s where
  read := rfl
  ack w := (portAck_store s r w h).symm
  ackAfterRead x w := (portAck_store (s.completed [.rd r x]) r w (m0 := m0) (by simp [State.completed, h])).symm

/-! ## The host's read -/

/-- A valid latch reads as its value (10_state R25). -/
theorem latchValue_of_validBit {l : LatchId} (h : s.validBit l = true) : ∃ v, s.latchValue l = some v ∧
    (l = .rw → v = .word s.rw.value) ∧ (l = .rt → v = .temp s.rt.value) ∧
    (l = .rn → v = .int s.rn.value) ∧ (l = .rb → v = .bool s.rb.value) := by
  cases l <;> rw [State.validBit] at h <;> simp [State.latchValue, Latch.read, h]

theorem step_of_moves {s : State} {x : Move} {rest : List Move} (h : s.moves = x :: rest) :
    step s = serve x { s with moves := rest } := by
  simp only [step, h]

theorem serve_readLatch {l : LatchId} {v : LatchValue} (h : s.latchValue l = some v) :
    serve (.readLatch l) s = .next { s with hostData := some v } := by
  simp [serve, hostRead, h]

end Sys2Proof.Machine

open Sys2Proof Sys2Proof.Machine

/-- Settles O7: the one step's cases are a turn, which leaves the block idle, and a move of the schedule. -/
theorem stepAlwaysAnswers : Obligations.StepAlwaysAnswers := by
  intro s
  obtain ⟨t, h, ht⟩ := step_next s
  refine ⟨t, h, fun hm hs => ?_⟩
  rcases ht with ⟨-, ht⟩ | ⟨x, rest, hx, -⟩
  · exact ht.busy_eq_false hs
  · simp [hm] at hx

/-- Settles O38: each state of `Result` is completed, with FAULT kept and the index advanced, or faulted. -/
theorem commandsCompleteOrFaultPrecisely : Obligations.CommandsCompleteOrFaultPrecisely := by
  intro i s hf
  obtain ⟨t, he, hr⟩ := exec_result s i
  refine ⟨t, he, hr.busy_eq_false, ?_⟩
  cases hr with
  | word | temp | int | bool | silent => exact .inl ⟨rfl, rfl⟩
  | fault c reg es k h1 h2 =>
    rw [State.faulted_fault_of_clear hf]
    exact .inr ⟨rfl, h1, h2, rfl, rfl, rfl, rfl, rfl, rfl, rfl, rfl, rfl, List.prefix_append _ _⟩

/-- Settles O43: the answers are what the store oracle gives the command's one register, once for each transaction. -/
theorem storeOracleIsANormativeOracle : Obligations.StoreOracleIsANormativeOracle := by
  intro i s t m0 hs he
  obtain ⟨r, hr⟩ := portPattern_register i
  obtain ⟨k, -, hu⟩ := exec_under (b := .oracle [storeAnswer r s, storeAnswer r s]) s.moves
    (fun a q hq => hr a q hq ▸ answersAlike_store s hs) he
  have hm : t.moves = s.moves := (result_of_exec he).moves_eq
  exact ⟨_, [storeAnswer r s, storeAnswer r s].drop k, hu.trans (by rw [← hm]; rfl)⟩

/-- Settles O47: the turn runs the command, whose result leaves its latch valid, and the read returns that latch's value. -/
theorem hostReadsTheResultOfACommand : Obligations.HostReadsTheResultOfACommand := by
  intro s t q i l rest hm hb hf hq hd hl he htf
  have hres := result_of_exec he
  obtain ⟨v, hv, hval⟩ := latchValue_of_validBit t (hres.validBit_of_no_fault hl htf)
  have hexec : exec i (({ s with moves := .readLatch l :: rest } : State).present q) =
      .next { t with moves := .readLatch l :: rest } :=
    exec_moves (s := { s with moves := rest, port := q }) (.readLatch l :: rest) he
  have hturn : step s = .next { t with moves := .readLatch l :: rest } := by
    rw [step_of_moves hm, serve]
    exact (issue_of_decode { s with moves := .readLatch l :: rest } hb hf hq hd).trans hexec
  have hread : step { t with moves := .readLatch l :: rest } = .next { t with hostData := some v } := by
    have ht : ({ t with moves := rest } : State) = t := by rw [← (show t.moves = rest from hres.moves_eq)]
    rw [step_of_moves rfl, ht, serve_readLatch t hv]
  exact ⟨v, (core_run_of_step hturn).trans (core_run_of_step hread), hval⟩

end

section
/-! PROOF. State (10_state): every step keeps the invariant, the parameters and the command list; the index moves on Done alone; a
command in parts comes to the state of the whole; what a command shows does not depend on what the latches held. -/

namespace Sys2Proof.Machine

section

variable {s t : State} {i : Instr}

/-! ## The block with a command to run -/

/-- What the invariant gives a block that runs a command: FAULT clear, an entry of the list at the index (10_state R27), RN within
16 bits (R23) and TVAL unwritten (R39). -/
structure State.Runnable (s : State) : Prop where
  fault : s.fault = FaultReg.none
  pc : s.pc < s.prog.length
  rn : s.rn.value < 65536
  history : s.history.all issuable = true

theorem State.Inv.runnable (h : s.Inv) (hf : s.fault.set = false) (hpc : s.pc < s.prog.length) : s.Runnable := by
  obtain ⟨-, hrn, ⟨hclear, -⟩, -, -, hh, -⟩ := h
  exact ⟨hclear hf, hpc, hrn, hh⟩

/-- A request at the index, or sampled by a block inside its command, is an entry of the list (10_state R27). -/
theorem State.Inv.runnable_of_request {q : Request} (h : s.Inv) (hf : s.fault.set = false)
    (hq : s.busy = false ∧ s.prog[s.pc]? = some q ∨ s.busy = true ∧ s.port = q) : s.Runnable := by
  refine h.runnable hf ?_
  rcases hq with ⟨-, hq⟩ | ⟨hb, -⟩
  · exact (List.getElem?_eq_some_iff.mp hq).1
  · obtain ⟨⟨-, hbusy, -⟩, -⟩ := h
    exact (List.getElem?_eq_some_iff.mp (hbusy hb).2.2).1

/-! ## How a command ends -/

/-- The invariant of an idle block. -/
theorem inv_of_idle (hb : t.busy = false) (hh : t.half = none) (hrn : t.rn.value < 65536) (hwf : t.fault.wf)
    (hv : t.validCount ≤ 1) (hf : t.fault.set = true → t.fault.cause ≠ 6 → t.validCount = 0)
    (he : t.history.all issuable = true) (hpc : t.pc ≤ t.prog.length) : t.Inv :=
  ⟨⟨fun _ => hh, fun h => by simp [hb] at h, fun h => absurd hh h⟩, hrn, hwf, hv, hf, he, hpc⟩

theorem FaultReg.none_wf : FaultReg.none.wf := by decide

/-- A command that is Done leaves the invariant (10_state R25, R27). -/
theorem State.Runnable.inv_of_done (h : s.Runnable) (hb : t.busy = false) (hh : t.half = none) (hf : t.fault = s.fault)
    (hpc : t.pc = s.pc + 1) (hprog : t.prog = s.prog) (hv : t.validCount ≤ 1) (hrn : t.rn.value < 65536)
    (he : t.history.all issuable = true) : t.Inv := by
  rw [h.fault] at hf
  refine inv_of_idle hb hh hrn (hf ▸ FaultReg.none_wf) hv (by simp [hf, FaultReg.none]) he ?_
  rw [hpc, hprog]
  exact h.pc

/-- A command that faults leaves the invariant (60_exceptions R224). -/
theorem State.Runnable.inv_of_fault (h : s.Runnable) (hb : t.busy = false) (hh : t.half = none) (hwf : t.fault.wf)
    (hpc : t.pc = s.pc) (hprog : t.prog = s.prog) (hv : t.validCount = 0) (hrn : t.rn = s.rn ∨ t.rn = s.rn.invalid)
    (he : t.history.all issuable = true) : t.Inv := by
  refine inv_of_idle hb hh ?_ hwf (by simp [hv]) (fun _ _ => hv) he ?_
  · rcases hrn with hrn | hrn <;> rw [hrn] <;> exact h.rn
  · rw [hpc, hprog]
    exact h.pc.le

/-- The invariant of a block inside a command: no valid bit, and the request at the index sampled (10_state R25, R27, R29). -/
theorem State.Runnable.inv_of_busy (h : s.Runnable) (hb : t.busy = true) (hf : t.fault = s.fault) (hv : t.validCount = 0)
    (hq : t.prog[t.pc]? = some t.port) (hh : t.half ≠ none → t.halfway = true) (hrn : t.rn = s.rn.invalid)
    (he : t.history.all issuable = true) : t.Inv := by
  rw [h.fault] at hf
  refine ⟨⟨fun h => by simp [hb] at h, fun _ => ⟨by rw [hf]; rfl, hv, hq⟩, hh⟩, ?_, hf ▸ FaultReg.none_wf, by omega,
    fun _ _ => hv, he, (List.getElem?_eq_some_iff.mp hq).1.le⟩
  rw [hrn]
  exact h.rn

theorem issuable_iff (e : Event) : issuable e = true ↔ eventKind e ≠ (true, .tval) := by
  rcases e with ⟨r, w⟩ | ⟨r, w⟩ <;> cases r <;> simp [issuable, eventKind]

/-- No command writes TVAL (10_state R39). -/
theorem tval_write_notMem_portPattern (i : Instr) : (true, RegAddr.tval) ∉ portPattern i := by
  cases i <;> simp [portPattern]

theorem issuable_of_portPattern {es : List Event} (hp : es.map eventKind <+: portPattern i) :
    es.all issuable = true := by
  simp only [List.all_eq_true, issuable_iff]
  intro e he h
  exact tval_write_notMem_portPattern i (h ▸ hp.subset (List.mem_map_of_mem he))

theorem State.Runnable.issuable_append (h : s.Runnable) {es : List Event} (hp : es.map eventKind <+: portPattern i) :
    (s.history ++ es).all issuable = true := by
  rw [List.all_append, h.history, issuable_of_portPattern hp, Bool.and_self]

theorem Result.inv (h : s.Runnable) (r : Result i s t) : t.Inv := by
  cases r with
  | word es v _ hp | temp es v _ hp | bool es v _ hp =>
    exact h.inv_of_done rfl rfl rfl rfl rfl le_rfl h.rn (h.issuable_append (by rw [hp]))
  | int es v _ hp hv => exact h.inv_of_done rfl rfl rfl rfl rfl le_rfl hv (h.issuable_append (by rw [hp]))
  | silent es c _ hp => exact h.inv_of_done rfl rfl rfl rfl rfl zero_le_one h.rn (h.issuable_append hp)
  | fault c reg es k h1 h2 hp =>
    have hf : s.fault.set = false := by rw [h.fault]; rfl
    refine h.inv_of_fault rfl rfl ?_ rfl rfl rfl (.inr rfl) (h.issuable_append hp)
    rw [State.faulted_fault_of_clear hf]
    exact ⟨fun h => absurd h (by simp), fun _ => ⟨h1, by simp; omega⟩⟩

/-! ## The moves -/

theorem illegalCommand_inv (h : s.Runnable) (cmd : Byte) : (illegalCommand cmd s).Inv :=
  h.inv_of_fault rfl rfl (FaultReg.record_wf _ _ _ (h.fault ▸ FaultReg.none_wf)) rfl rfl rfl (.inr rfl) h.history

/-- The write half of a read-modify-write met with no latch valid. -/
theorem writeBack_inv (h : s.Runnable) (hv : s.validCount = 0) (before : Word) (f : ConfigField) (v : Int) :
    (writeBack i before f v s).Inv := by
  rcases writeBack_cases s i before f v with ⟨-, e⟩ | ⟨-, e⟩ <;> rw [e]
  · refine h.inv_of_done rfl rfl rfl rfl rfl (hv.trans_le zero_le_one) h.rn ?_
    simp [List.all_append, h.history, issuable]
  · exact h.inv_of_fault rfl rfl (FaultReg.record_wf _ _ _ (h.fault ▸ FaultReg.none_wf)) rfl rfl hv (.inl rfl) h.history

/-- What `Runnable` speaks of is not the sampled request. -/
theorem State.Runnable.present (h : s.Runnable) (q : Request) : (s.present q).Runnable := ⟨h.fault, h.pc, h.rn, h.history⟩

theorem Turn.inv (h : s.Inv) (ht : Turn s t) : t.Inv := by
  cases ht with
  | waits => exact h
  | runs q i _ hf hq hd he => exact (result_of_exec he).inv ((h.runnable_of_request hf hq).present q)
  | illegal q e hf hq => exact illegalCommand_inv ((h.runnable_of_request hf hq).present q) _
  | writes i before f v hf hb =>
    have hrun := h.runnable_of_request hf (.inr ⟨hb, rfl⟩)
    obtain ⟨⟨-, hbusy, -⟩, -⟩ := h
    exact writeBack_inv hrun (hbusy hb).2.1 before f v

/-- An accepted command's state: the request at the index sampled, no valid bit, FAULT clear (10_state R25, R29). -/
theorem accept_inv (h : s.Runnable) {q : Request} (hq : s.prog[s.pc]? = some q) : (s.accept q).Inv :=
  h.inv_of_busy rfl rfl rfl hq (fun hh => absurd rfl hh) rfl h.history

/-- The block inside the command it began at `s`, past the read of `w` and before the write (log 12). -/
def halfDone (w : Word) (s : State) : State := { afterRead w s with half := some s.cfgl }

/-- CFGL then holds the word of the last event, its read of CFG (10_state R43). -/
theorem halfDone_inv (h : s.Runnable) (hq : s.prog[s.pc]? = some s.port) (hd : decode s.port.cmd = .ok i)
    (hm : (readModifyWrite i s.port).isSome = true) {w : Word} (hw : writesAfter i w = true) : (halfDone w s).Inv := by
  refine h.inv_of_busy rfl rfl rfl hq (fun _ => ?_) rfl ?_
  · simp [State.halfway, halfDone, afterRead, hd, hm, hw]
  · simp [halfDone, afterRead, List.all_append, h.history, issuable]

/-- What the read of a read-modify-write, on its own, can do: go on to the write, end TRIGSS awake, or fault. -/
theorem readHalf_cases (s : State) (i : Instr) :
    (∃ w, s.portRead .cfg = some w ∧ writesAfter i w = true ∧ readHalf i s = halfDone w s) ∨
    (∃ w, s.portRead .cfg = some w ∧ writesAfter i w = false ∧ readHalf i s = (afterRead w s).done) ∨
    (s.portRead .cfg = none ∧ readHalf i s = s.start.drawn.portFault i .portReadFault .cfg) := by
  unfold readHalf memRead
  rw [portRead_start]
  cases s.portRead .cfg with
  | none => exact .inr (.inr ⟨rfl, rfl⟩)
  | some w =>
    cases hw : writesAfter i w
    · exact .inr (.inl ⟨w, rfl, hw, by simp [hw, afterRead]⟩)
    · exact .inl ⟨w, rfl, hw, by simp [hw, halfDone, afterRead]⟩

theorem readHalf_inv (h : s.Runnable) (hq : s.prog[s.pc]? = some s.port) (hd : decode s.port.cmd = .ok i)
    (hm : (readModifyWrite i s.port).isSome = true) : (readHalf i s).Inv := by
  rcases readHalf_cases s i with ⟨w, -, hw, e⟩ | ⟨w, -, -, e⟩ | ⟨-, e⟩ <;> rw [e]
  · exact halfDone_inv h hq hd hm hw
  · refine h.inv_of_done rfl rfl rfl rfl rfl zero_le_one h.rn ?_
    simp [afterRead, List.all_append, h.history, issuable]
  · exact Result.inv h (i := i) (.portFault s _ _ (.inl rfl))

theorem Part.inv (h : s.Inv) (hp : Part s t) : t.Inv := by
  cases hp with
  | turn _ ht => exact ht.inv h
  | accepts q hb hf hq => exact accept_inv (h.runnable_of_request hf (.inl ⟨hb, hq⟩)) hq
  | reads i hb hf hh hd hm =>
    have hrun := h.runnable_of_request hf (.inr ⟨hb, rfl⟩)
    obtain ⟨⟨-, hbusy, -⟩, -⟩ := h
    exact readHalf_inv hrun (hbusy hb).2.2 hd hm

/-- A reset sets what the table of 70_reset R250 lists and keeps the history. -/
theorem applyReset_inv (h : s.Inv) : s.applyReset.Inv := by
  obtain ⟨-, -, -, -, -, he, -⟩ := h
  exact inv_of_idle rfl rfl (by simp [State.reset]) FaultReg.none_wf zero_le_one (fun _ _ => rfl) he (Nat.zero_le _)

/-- A host read that finds its latch invalid ends in the fault ResultInvalid, under which the other latches may stay valid
(60_exceptions R221). -/
theorem takeFault_resultInvalid_inv (h : s.Inv) (info : FaultInfo) : (s.takeFault .resultInvalid info).Inv := by
  obtain ⟨-, hrn, hwf, hv, hf, he, hpc⟩ := h
  refine inv_of_idle rfl rfl hrn (FaultReg.record_wf _ _ _ hwf) hv ?_ he hpc
  cases hs : s.fault.set
  · simp [FaultReg.record_clear _ _ _ hs, Cause.code]
  · rw [State.takeFault_fault, FaultReg.record_set _ _ _ hs]
    exact hf

theorem Served.inv {x : Move} (h : s.Inv) (hx : Served s x t) : t.Inv := by
  cases hx with
  | reset => exact applyReset_inv h
  | read => exact h
  | noRead => exact takeFault_resultInvalid_inv h _
  | turn _ ht => exact ht.inv h
  | part _ hp => exact hp.inv h

/-! ## The parameters and the command list -/

/-- The same integration parameters (10_state R45) and the same command list (R27). -/
abbrev SameSetup (s t : State) : Prop := t.params = s.params ∧ t.prog = s.prog

theorem Result.sameSetup (h : Result i s t) : SameSetup s t := by cases h <;> exact ⟨rfl, rfl⟩

theorem Turn.sameSetup (h : Turn s t) : SameSetup s t := by
  cases h with
  | waits => exact ⟨rfl, rfl⟩
  | runs q i _ _ _ _ he => exact (result_of_exec he).sameSetup
  | illegal => exact ⟨rfl, rfl⟩
  | writes i before f v => rcases writeBack_cases s i before f v with ⟨-, e⟩ | ⟨-, e⟩ <;> rw [e] <;> exact ⟨rfl, rfl⟩

theorem Part.sameSetup (h : Part s t) : SameSetup s t := by
  cases h with
  | turn _ ht => exact ht.sameSetup
  | accepts => exact ⟨rfl, rfl⟩
  | reads i => rcases readHalf_cases s i with ⟨w, -, -, e⟩ | ⟨w, -, -, e⟩ | ⟨-, e⟩ <;> rw [e] <;> exact ⟨rfl, rfl⟩

theorem Served.sameSetup {x : Move} (h : Served s x t) : SameSetup s t := by
  cases h with
  | reset | read | noRead => exact ⟨rfl, rfl⟩
  | turn _ ht => exact ht.sameSetup
  | part _ hp => exact hp.sameSetup

/-! ## The index -/

/-- A command that is Done keeps FAULT and advances the index; one that faults sets FAULT and leaves the index (10_state R27). -/
abbrev IndexMoved (s t : State) : Prop := t.fault = s.fault ∧ t.pc = s.pc + 1 ∨ t.fault.set = true ∧ t.pc = s.pc

theorem FaultReg.record_set_eq_true (f : FaultReg) (c : Cause) (info : FaultInfo) : (f.record c info).set = true := by
  unfold FaultReg.record
  split
  · assumption
  · rfl

theorem Result.indexMoved (h : Result i s t) : IndexMoved s t := by
  cases h with
  | word | temp | int | bool | silent => exact .inl ⟨rfl, rfl⟩
  | fault c reg es k => exact .inr ⟨State.faulted_fault_set s c _ reg es k, rfl⟩

/-- A turn of a block with FAULT clear waits at the end of the list, or brings a command to its outcome. -/
theorem Turn.waits_or_indexMoved (h : Turn s t) (hf : s.fault.set = false) :
    t = s ∧ s.busy = false ∧ s.prog.length ≤ s.pc ∨
    (s.busy = true ∨ s.pc < s.prog.length) ∧ IndexMoved s t := by
  have hcommand {q : Request} (hq : s.busy = false ∧ s.prog[s.pc]? = some q ∨ s.busy = true ∧ s.port = q) :
      s.busy = true ∨ s.pc < s.prog.length :=
    hq.elim (fun hq => .inr (List.getElem?_eq_some_iff.mp hq.2).1) fun hq => .inl hq.1
  cases h with
  | waits h =>
    rcases h with hs | ⟨hb, hpc⟩
    · simp [hf] at hs
    · exact .inl ⟨rfl, hb, hpc⟩
  | runs q i _ _ hq _ he => exact .inr ⟨hcommand hq, (result_of_exec he).indexMoved⟩
  | illegal q e _ hq => exact .inr ⟨hcommand hq, .inr ⟨FaultReg.record_set_eq_true _ _ _, rfl⟩⟩
  | writes i before f v _ hb =>
    refine .inr ⟨.inl hb, ?_⟩
    rcases writeBack_cases s i before f v with ⟨-, e⟩ | ⟨-, e⟩ <;> rw [e]
    · exact .inl ⟨rfl, rfl⟩
    · exact .inr ⟨FaultReg.record_set_eq_true _ _ _, rfl⟩

/-! ## A step with no move scheduled -/

theorem step_of_no_moves (h : s.moves = []) : step s = issue s := by simp only [step, h]

theorem issue_of_busy (hf : s.fault.set = false) (hb : s.busy = true) : issue s = finish s := by simp [issue, hf, hb]

/-- Before its first transaction a command is run from its beginning (log 12). -/
theorem finish_of_decode (hh : s.half = none) (hd : decode s.port.cmd = .ok i) : finish s = exec i s := by
  simp only [finish, hd, hh]

theorem finish_of_illegal {e : Illegal} (hd : decode s.port.cmd = .error e) :
    finish s = .next (illegalCommand s.port.cmd s) := by
  simp only [finish, hd]

/-- Past the read of a read-modify-write the write is what is left of it (10_state R43). -/
theorem finish_of_halfway {before : Word} {f : ConfigField} {v : Int} (hh : s.half = some before)
    (hd : decode s.port.cmd = .ok i) (hm : readModifyWrite i s.port = some (f, v)) :
    finish s = .next (writeBack i before f v s) := by
  simp only [finish, hd, hh, hm]

/-- The words that decode are those of the opcode map (30_encoding R87, R88). -/
theorem decode_isOk_iff (cmd : Byte) : (decode cmd).isOk = true ↔ cmd ∈ mapWords := by
  revert cmd; decide

theorem decode_error_of_notMem {cmd : Byte} (h : cmd ∉ mapWords) : ∃ e, decode cmd = .error e := by
  cases hd : decode cmd with
  | error e => exact ⟨e, rfl⟩
  | ok i => exact absurd ((decode_isOk_iff cmd).mp (by rw [hd]; rfl)) h

/-! ## The result latch -/

theorem Result.validBit_eq_true (h : Result i s t) {l : LatchId} (hl : t.validBit l = true) : i.result = some l := by
  cases h with
  | word _ _ hr => cases l with | rw => exact hr | rt | rn | rb => cases hl
  | temp _ _ hr => cases l with | rt => exact hr | rw | rn | rb => cases hl
  | int _ _ hr => cases l with | rn => exact hr | rw | rt | rb => cases hl
  | bool _ _ hr => cases l with | rb => exact hr | rw | rt | rn => cases hl
  | silent | fault => cases l <;> cases hl

/-! ## Read-modify-writes -/

/-- A read-modify-write command as its read and what follows it (42_config_fields R190 to R199). -/
theorem exec_of_readModifyWrite {f : ConfigField} {v : Int} (hm : readModifyWrite i s.port = some (f, v)) :
    exec i s = .next (memRead i .cfg (fun w t =>
      if writesAfter i w then writeBack i s.cfgl f v { t with cfgl := w } else { t with cfgl := w }.done) s.start) := by
  cases i
  case setfCr | setfCf =>
    obtain ⟨c, hc, hfv⟩ := Option.map_eq_some_iff.mp hm
    cases hfv
    simp [exec, execSetfCr, execSetfCf, setLogicalCommand, hc, setFieldCommand, writesAfter]
  case setfSm | setfIm | setfPol | setfSs | trigss =>
    cases hm
    simp [exec, execSetfSm, execSetfIm, execSetfPol, execSetfSs, setFieldCommand, execTrigss, triggerCommand, writesAfter]
  all_goals cases hm

/-- Where a write follows the read of `w`, the command is that write in the state after the read. -/
theorem exec_of_writesAfter {f : ConfigField} {v : Int} {w : Word} (hm : readModifyWrite i s.port = some (f, v))
    (hr : s.portRead .cfg = some w) (hw : writesAfter i w = true) :
    exec i s = .next (writeBack i s.cfgl f v (afterRead w s)) := by
  simp [exec_of_readModifyWrite hm, memRead, hr, hw, afterRead]

/-- Where none follows, the read on its own is the whole command. -/
theorem exec_eq_readHalf {f : ConfigField} {v : Int} (hm : readModifyWrite i s.port = some (f, v))
    (hw : ∀ w, s.portRead .cfg = some w → writesAfter i w = false) : exec i s = .next (readHalf i s) := by
  rw [exec_of_readModifyWrite hm, readHalf, memRead, memRead, portRead_start]
  cases hr : s.portRead .cfg with
  | none => rfl
  | some w => simp [hw w hr]

/-- A read-modify-write of the opcode map with nothing to write is a discarded setter: Done at once
(42_config_fields R191, R192). -/
theorem exec_of_discarded (hp : portPattern i = [(false, .cfg), (true, .cfg)]) (hm : readModifyWrite i s.port = none) :
    exec i s = .next (s.completed []) := by
  cases i
  case setfCr | setfCf =>
    have hc := Option.map_eq_none_iff.mp hm
    simp [exec, execSetfCr, execSetfCf, setLogicalCommand, hc, start_done_eq]
  case setfSm | setfIm | setfPol | setfSs | trigss => cases hm
  all_goals simp [portPattern] at hp

/-- The commands that write CFG: WRREG CFG and the read-modify-writes (30_encoding R87). -/
theorem portPattern_of_writes_cfg (hi : i ≠ .wrregCfg) (hp : (true, RegAddr.cfg) ∈ portPattern i) :
    portPattern i = [(false, .cfg), (true, .cfg)] := by
  cases i
  case setfCr | setfSm | setfIm | setfPol | setfCf | setfSs | trigss => rfl
  case wrregCfg => exact absurd rfl hi
  all_goals simp [portPattern] at hp

theorem portPattern_of_readModifyWrite {q : Request} {f : ConfigField} {v : Int}
    (hm : readModifyWrite i q = some (f, v)) : portPattern i = [(false, .cfg), (true, .cfg)] := by
  cases i
  case setfCr | setfSm | setfIm | setfPol | setfCf | setfSs | trigss => rfl
  all_goals cases hm

/-- No read-modify-write writes AL (10_state R31). -/
theorem readModifyWrite_ne_al {q : Request} {f : ConfigField} {v : Int} (hm : readModifyWrite i q = some (f, v)) :
    f ≠ .al := by
  cases i
  case setfCr | setfCf =>
    obtain ⟨c, -, hfv⟩ := Option.map_eq_some_iff.mp hm
    cases hfv
    decide
  case setfSm | setfIm | setfPol | setfSs | trigss => cases hm; decide
  all_goals cases hm

/-- The port events of a read-modify-write: both, the read alone, or none (20_memory R62, R68). -/
theorem history_of_readModifyWrite {f : ConfigField} {v : Int} (hm : readModifyWrite i s.port = some (f, v))
    (h : exec i s = .next t) : ∃ w, t.history = s.history ++ [] ∨ t.history = s.history ++ [.rd .cfg w] ∨
      t.history = s.history ++ [.rd .cfg w, .wr .cfg (packField w f.field v)] := by
  rcases readHalf_cases s i with ⟨w, hr, hw, -⟩ | ⟨w, hr, hw, e⟩ | ⟨hr, e⟩
  · rw [exec_of_writesAfter hm hr hw] at h
    cases h
    rcases writeBack_afterRead_cases s i w f v with ⟨-, e⟩ | ⟨-, e⟩ <;> rw [e]
    · exact ⟨w, .inr (.inr rfl)⟩
    · exact ⟨w, .inr (.inl rfl)⟩
  · rw [exec_eq_readHalf hm (by simp [hr, hw]), e] at h
    cases h
    exact ⟨w, .inr (.inl rfl)⟩
  · rw [exec_eq_readHalf hm (by simp [hr]), e] at h
    cases h
    exact ⟨0, .inl (List.append_nil _).symm⟩

/-- The events of a command follow the opcode map (30_encoding R87). -/
theorem Result.events (h : Result i s t) : ∃ es, t.history = s.history ++ es ∧ es.map eventKind <+: portPattern i := by
  cases h with
  | word es _ _ hp | temp es _ _ hp | int es _ _ hp | bool es _ _ hp => exact ⟨es, rfl, by rw [hp]⟩
  | silent es _ _ hp | fault _ _ es _ _ _ hp => exact ⟨es, rfl, hp⟩

/-- A command other than WRREG CFG writes CFG only as the second half of a read-modify-write (10_state R31, R38). -/
theorem cfg_write_follows_read {es : List Event} {w' : Word} (hi : i ≠ .wrregCfg) (h : exec i s = .next t)
    (hes : t.history = s.history ++ es) (hw' : Event.wr .cfg w' ∈ es) :
    ∃ f v w, readModifyWrite i s.port = some (f, v) ∧ w' = packField w f.field v ∧ es = [.rd .cfg w, .wr .cfg w'] := by
  have hp : portPattern i = [(false, .cfg), (true, .cfg)] := by
    obtain ⟨es', hes', hpre⟩ := (result_of_exec h).events
    obtain rfl := List.append_cancel_left (hes.symm.trans hes')
    exact portPattern_of_writes_cfg hi (hpre.subset (List.mem_map_of_mem (f := eventKind) hw'))
  cases hm : readModifyWrite i s.port with
  | none =>
    rw [exec_of_discarded hp hm] at h
    cases h
    obtain rfl := List.append_cancel_left hes
    simp at hw'
  | some p =>
    obtain ⟨f, v⟩ := p
    obtain ⟨w, hh | hh | hh⟩ := history_of_readModifyWrite hm h <;>
      obtain rfl := List.append_cancel_left (hes.symm.trans hh)
    · simp at hw'
    · simp at hw'
    · obtain rfl : w' = packField w f.field v := by simpa using hw'
      exact ⟨f, v, w, rfl, rfl, rfl⟩

/-! ## The bits of the word written back -/

/-- Writing a field other than AL keeps AL and the unassigned bits (10_state R30, R31, R38). -/
theorem packField_keeps_al_and_unassigned {f : ConfigField} (hf : f ≠ .al) (w : Word) (v : Int) {j : Nat}
    (hj : j ∈ [0, 1, 2, 3, 4, 5, 13, 14]) : (packField w f.field v).getLsbD j = w.getLsbD j := by
  have hlt : j < 16 := by simp only [List.mem_cons, List.not_mem_nil, or_false] at hj; omega
  rw [packField_getLsbD w f.field v f.field_wf j hlt, if_neg]
  intro hin
  simp only [List.mem_cons, List.not_mem_nil, or_false] at hj
  cases f with
  | al => exact hf rfl
  | cr | sm | im | pol | cf | ss => simp at hin; omega

/-- A single-bit field takes the Boolean, and every other bit stays (42_config_fields R190, R196). -/
theorem packField_storedBool_getLsbD (w : Word) {f : Field} (hf : f.wf) (hw : f.wid = 1) (b : Bool) {j : Nat}
    (hj : j < 16) : (packField w f (storedBool b)).getLsbD j = (if j = f.off then some b else none).getD (w.getLsbD j) := by
  rw [packField_getLsbD w f _ hf j hj, hw]
  by_cases h : j = f.off
  · subst h; cases b <;> simp [storedBool]
  · rw [if_neg (by omega), if_neg h]; rfl

/-- A two-bit field takes the two bits of its code, and every other bit stays (42_config_fields R190). -/
theorem packField_twoBits_getLsbD (w : Word) {f : Field} (hf : f.wf) (hw : f.wid = 2) (hi lo : Bool) {j : Nat}
    (hj : j < 16) : (packField w f (2 * storedBool hi + storedBool lo)).getLsbD j =
      (if j = f.off then some lo else if j = f.off + 1 then some hi else none).getD (w.getLsbD j) := by
  rw [packField_getLsbD w f _ hf j hj, hw]
  by_cases h : j = f.off
  · subst h; cases hi <;> cases lo <;> simp [storedBool]
  · by_cases h' : j = f.off + 1
    · subst h'; cases hi <;> cases lo <;> simp [storedBool]
    · rw [if_neg (by omega), if_neg h, if_neg h']; rfl

/-- The codes of the four cycle times (42_config_fields R191). -/
theorem cycleTimeCode_of_mem {n : Int} {hi lo : Bool}
    (h : (n, hi, lo) ∈ [(4000, false, false), (1000, false, true), (250, true, false), (125, true, true)]) :
    cycleTimeCode n = some (2 * storedBool hi + storedBool lo) := by
  simp only [List.mem_cons, Prod.mk.injEq, List.not_mem_nil, or_false] at h
  rcases h with ⟨rfl, rfl, rfl⟩ | ⟨rfl, rfl, rfl⟩ | ⟨rfl, rfl, rfl⟩ | ⟨rfl, rfl, rfl⟩ <;> rfl

/-- The codes of the four fault counts (42_config_fields R192). -/
theorem faultCountCode_of_mem {n : Int} {hi lo : Bool}
    (h : (n, hi, lo) ∈ [(1, false, false), (2, false, true), (3, true, false), (4, true, true)]) :
    faultCountCode n = some (2 * storedBool hi + storedBool lo) := by
  simp only [List.mem_cons, Prod.mk.injEq, List.not_mem_nil, or_false] at h
  rcases h with ⟨rfl, rfl, rfl⟩ | ⟨rfl, rfl, rfl⟩ | ⟨rfl, rfl, rfl⟩ | ⟨rfl, rfl, rfl⟩ <;> rfl

/-! ## A command in parts -/

theorem run_one (M : Host.Core) (s : M.State) : M.run 1 s = M.step s := by
  simp only [Host.Core.run]
  cases M.step s <;> rfl

theorem core_run_one (s : State) : core.run 1 s = step s := run_one core s

/-- The first part of a command is its acceptance (30_encoding R80). -/
theorem advance_of_idle {q : Request} (hb : s.busy = false) (hf : s.fault.set = false) (hq : s.prog[s.pc]? = some q) :
    advance s = .next (s.accept q) := by
  simp [advance, hb, hf, State.nextRequest, State.accepts, hq]

theorem finish_accept {q : Request} (hd : decode q.cmd = .ok i) : finish (s.accept q) = exec i (s.present q) := by
  rw [finish_of_decode (s := s.accept q) rfl hd]
  exact exec_start (s.present q) i

/-- Where a command is no read-modify-write its second part is its outcome. -/
theorem advance_accept_of_none {q : Request} (hf : s.fault.set = false) (hd : decode q.cmd = .ok i)
    (hm : readModifyWrite i q = none) : advance (s.accept q) = exec i (s.present q) := by
  rw [← finish_accept hd]
  simp [advance, State.accept, hf, hd, hm]

/-- The second part of a read-modify-write is its read (20_memory R64). -/
theorem advance_accept_of_some {q : Request} {p : ConfigField × Int} (hf : s.fault.set = false)
    (hd : decode q.cmd = .ok i) (hm : readModifyWrite i q = some p) :
    advance (s.accept q) = .next (readHalf i (s.present q)) := by
  simp [advance, State.accept, hf, hd, hm]
  rfl

/-- Past the read either move makes the write, in the state after the read: that half of the command was done before does not
show. -/
theorem serve_halfDone {m : Move} {f : ConfigField} {v : Int} {w : Word} (hmove : m = .turn ∨ m = .part)
    (hf : s.fault.set = false) (hd : decode s.port.cmd = .ok i) (hm : readModifyWrite i s.port = some (f, v)) :
    serve m (halfDone w s) = .next (writeBack i s.cfgl f v (afterRead w s)) := by
  have hfinish : finish (halfDone w s) = .next (writeBack i s.cfgl f v (afterRead w s)) :=
    finish_of_halfway (s := halfDone w s) rfl hd hm
  have hf' : (halfDone w s).fault.set = false := hf
  have hd' : decode (halfDone w s).port.cmd = .ok i := hd
  rcases hmove with rfl | rfl
  · exact (issue_of_busy hf' rfl).trans hfinish
  · rw [← hfinish, serve, advance, hf', hd']
    rfl

end

/-! ## The same command with other values in the latches -/

/-- The result latches and CFGL: what an earlier command may have written in the block. -/
structure Latches where
  rw : Latch Word
  rt : Latch Temp
  rn : Latch Nat
  rb : Latch Bool
  cfgl : Word

def State.latches (s : State) : Latches := { rw := s.rw, rt := s.rt, rn := s.rn, rb := s.rb, cfgl := s.cfgl }

def State.withLatches (l : Latches) (s : State) : State :=
  { s with rw := l.rw, rt := l.rt, rn := l.rn, rb := l.rb, cfgl := l.cfgl }

/-- The states `t` and `u` differ in CFGL and in the values of invalid latches alone (10_state R25, R43). -/
structure ShowAlike (t u : State) : Prop where
  rest : u = t.withLatches u.latches
  rw : u.rw.read = t.rw.read
  rt : u.rt.read = t.rt.read
  rn : u.rn.read = t.rn.read
  rb : u.rb.read = t.rb.read

/-- An operation that takes states that show alike to such states. -/
abbrev KeepsAlike (f : State → State) : Prop := ∀ {t u : State}, ShowAlike t u → ShowAlike (f t) (f u)

theorem keepsAlike_done : KeepsAlike State.done := fun h => ⟨congrArg State.done h.rest, h.rw, h.rt, h.rn, h.rb⟩

theorem keepsAlike_logged (e : Event) : KeepsAlike (State.logged e) := fun h =>
  ⟨congrArg (State.logged e) h.rest, h.rw, h.rt, h.rn, h.rb⟩

theorem keepsAlike_setRW (v : Word) : KeepsAlike (State.setRW v) := fun h =>
  ⟨congrArg (State.setRW v) h.rest, rfl, h.rt, h.rn, h.rb⟩

theorem keepsAlike_setRT (v : Temp) : KeepsAlike (State.setRT v) := fun h =>
  ⟨congrArg (State.setRT v) h.rest, h.rw, rfl, h.rn, h.rb⟩

theorem keepsAlike_setRN (v : Nat) : KeepsAlike (State.setRN v) := fun h =>
  ⟨congrArg (State.setRN v) h.rest, h.rw, h.rt, rfl, h.rb⟩

theorem keepsAlike_setRB (v : Bool) : KeepsAlike (State.setRB v) := fun h =>
  ⟨congrArg (State.setRB v) h.rest, h.rw, h.rt, h.rn, rfl⟩

variable (s : State) (l : Latches) {i : Instr} {r : RegAddr}

/-- Once the valid bits are cleared, what the latches held does not show (10_state R25). -/
theorem ShowAlike.start : ShowAlike s.start (s.withLatches l).start := ⟨rfl, rfl, rfl, rfl, rfl⟩

theorem ShowAlike.commandFault (c : Cause) :
    ShowAlike (s.start.commandFault i c) ((s.withLatches l).start.commandFault i c) := ⟨rfl, rfl, rfl, rfl, rfl⟩

theorem ShowAlike.portFault (c : Cause) :
    ShowAlike (s.start.drawn.portFault i c r) ((s.withLatches l).start.drawn.portFault i c r) :=
  ⟨rfl, rfl, rfl, rfl, rfl⟩

theorem ShowAlike.compute {f : State → State} (hf : KeepsAlike f) :
    ShowAlike (compute f s) (compute f (s.withLatches l)) := keepsAlike_done (hf (.start s l))

theorem ShowAlike.field {f : State → State} (hf : KeepsAlike f) :
    ShowAlike (fieldCommand i f s) (fieldCommand i f (s.withLatches l)) := by
  show ShowAlike _ (if fieldInRange s.port.field then _ else _)
  unfold fieldCommand
  split
  · exact .compute s l hf
  · exact .commandFault s l _

theorem ShowAlike.read {f : Word → State → State} (hf : ∀ w, KeepsAlike (f w)) :
    ShowAlike (readCommand i r f s) (readCommand i r f (s.withLatches l)) := by
  have hr : (s.withLatches l).portRead r = s.portRead r := rfl
  simp only [readCommand, memRead, portRead_start, hr]
  cases s.portRead r with
  | some w => exact keepsAlike_done (hf w (keepsAlike_logged _ (.start s l)))
  | none => exact .portFault s l _

theorem ShowAlike.write (w : Word) : ShowAlike (writeCommand i r w s) (writeCommand i r w (s.withLatches l)) := by
  have ha : (s.withLatches l).start.portAck r w = s.start.portAck r w := rfl
  unfold writeCommand memWrite
  rw [ha]
  cases s.start.portAck r w
  · exact .portFault s l _
  · exact keepsAlike_done (keepsAlike_logged _ (.start s l))

theorem ShowAlike.threshold (x : Temp) :
    ShowAlike (thresholdCommand i r x s) (thresholdCommand i r x (s.withLatches l)) := by
  unfold thresholdCommand
  cases encodeTemp x with
  | some w => exact .write s l w
  | none => exact .commandFault s l _

/-- CFGL is read only after the read of CFG has written it (10_state R43). -/
theorem ShowAlike.writeBack (w : Word) (f : ConfigField) (v : Int) :
    ShowAlike (writeBack i s.cfgl f v (afterRead w s))
      (writeBack i (s.withLatches l).cfgl f v (afterRead w (s.withLatches l))) := by
  have ha : (afterRead w (s.withLatches l)).portAck .cfg (packField w f.field v) =
    (afterRead w s).portAck .cfg (packField w f.field v) := rfl
  rcases writeBack_cases (afterRead w s) i s.cfgl f v with ⟨hs, e⟩ | ⟨hs, e⟩ <;>
    rcases writeBack_cases (afterRead w (s.withLatches l)) i (s.withLatches l).cfgl f v with ⟨hl, e'⟩ | ⟨hl, e'⟩
  · rw [e, e']; exact ⟨rfl, rfl, rfl, rfl, rfl⟩
  · exact absurd (hl.symm.trans (ha.trans hs)) (by decide)
  · exact absurd (hl.symm.trans (ha.trans hs)) (by decide)
  · rw [e, e']; exact ⟨rfl, rfl, rfl, rfl, rfl⟩

/-- A read-modify-write, or a setter that discards its value (42_config_fields R190 to R199). -/
theorem exec_showAlike_of_writes_cfg (hp : portPattern i = [(false, .cfg), (true, .cfg)]) :
    ∃ t u, exec i s = .next t ∧ exec i (s.withLatches l) = .next u ∧ ShowAlike t u := by
  cases hm : readModifyWrite i s.port with
  | none => exact ⟨_, _, exec_of_discarded hp hm, exec_of_discarded hp hm, rfl, rfl, rfl, rfl, rfl⟩
  | some p =>
    refine ⟨_, _, exec_of_readModifyWrite hm, exec_of_readModifyWrite hm, ?_⟩
    have hr : (s.withLatches l).portRead .cfg = s.portRead .cfg := rfl
    simp only [memRead, portRead_start, hr]
    cases s.portRead .cfg with
    | none => exact .portFault s l _
    | some w =>
      by_cases hw : writesAfter i w = true
      · simp only [if_pos hw]; exact .writeBack s l w p.1 p.2
      · simp only [if_neg hw]; exact ⟨rfl, rfl, rfl, rfl, rfl⟩

/-- A command shows the same whatever the latches and CFGL held before it (10_state R20, R43). -/
theorem exec_showAlike (i : Instr) :
    ∃ t u, exec i s = .next t ∧ exec i (s.withLatches l) = .next u ∧ ShowAlike t u := by
  cases i
  case dect | c2f | f2c => exact ⟨_, _, rfl, rfl, .compute s l (keepsAlike_setRT _)⟩
  case enct =>
    refine ⟨_, _, rfl, rfl, ?_⟩
    show ShowAlike _ (match encodeTemp s.port.t with | some w => _ | none => _)
    cases encodeTemp s.port.t with
    | some w => exact .compute s l (keepsAlike_setRW w)
    | none => exact .commandFault s l _
  case pack => exact ⟨_, _, rfl, rfl, .field s l (keepsAlike_setRW _)⟩
  case unpack => exact ⟨_, _, rfl, rfl, .field s l (keepsAlike_setRN _)⟩
  case rdregTval | rdregCfg | rdregTlow | rdregThigh => exact ⟨_, _, rfl, rfl, .read s l keepsAlike_setRW⟩
  case rdtempC | rdtempF | getthLowC | getthLowF | getthHighC | getthHighF =>
    exact ⟨_, _, rfl, rfl, .read s l fun _ => keepsAlike_setRT _⟩
  case getfAl | getfSm | getfIm | getfPol | getfSs => exact ⟨_, _, rfl, rfl, .read s l fun _ => keepsAlike_setRB _⟩
  case getfCr | getfCf => exact ⟨_, _, rfl, rfl, .read s l fun _ => keepsAlike_setRN _⟩
  case wrregCfg | wrregTlow | wrregThigh => exact ⟨_, _, rfl, rfl, .write s l _⟩
  case setthLow | setthHigh => exact ⟨_, _, rfl, rfl, .threshold s l _⟩
  case setfCr | setfSm | setfIm | setfPol | setfCf | setfSs | trigss => exact exec_showAlike_of_writes_cfg s l rfl

end Sys2Proof.Machine

open Sys2Proof Sys2Proof.Machine

/-- Settles O52: a step is a turn or a scheduled move, and each keeps the invariant, of which the schedule is no part. -/
theorem stepKeepsTheInvariant : Obligations.StepKeepsTheInvariant := by
  intro s t h hs
  rcases step_cases hs with ⟨-, ht⟩ | ⟨x, rest, -, hx⟩
  · exact ht.inv h
  · exact hx.inv (s := { s with moves := rest }) h

/-- Settles O12: a step is a turn or a scheduled move, and each keeps them. -/
theorem stepKeepsParametersAndCommandList : Obligations.StepKeepsParametersAndCommandList := by
  intro s t h
  rcases step_cases h with ⟨-, ht⟩ | ⟨x, rest, -, hx⟩
  · exact ht.sameSetup
  · exact hx.sameSetup

/-- Settles O6: with no move scheduled a step is a turn, which waits or brings a command to its outcome. -/
theorem indexAdvancesOnDoneOnly : Obligations.IndexAdvancesOnDoneOnly := by
  intro s t hm hf h
  rcases step_cases h with ⟨-, ht⟩ | ⟨x, rest, hx, -⟩
  · rcases ht.waits_or_indexMoved hf with ⟨rfl, hb, hpc⟩ | ⟨hc, hmoved⟩
    · have hno : ¬ (t.pc < t.prog.length ∨ t.busy = true) := by simp [hb, hpc]
      exact ⟨fun hc => absurd hc hno, fun hc => absurd hc hno, fun _ _ => rfl⟩
    · refine ⟨fun _ ht => ?_, fun _ ht => ?_, fun hpc hb => ?_⟩
      · rcases hmoved with ⟨-, hpc⟩ | ⟨hset, -⟩
        · exact hpc
        · simp [hset] at ht
      · rcases hmoved with ⟨hfault, -⟩ | ⟨-, hpc⟩
        · simp [hfault, hf] at ht
        · exact hpc
      · rcases hc with hc | hc
        · simp [hb] at hc
        · omega
  · simp [hm] at hx

/-- Settles O4: the sequencer's turn presents the request at the index. -/
theorem stepRunsTheDecodedCommand : Obligations.StepRunsTheDecodedCommand := by
  intro s q i hm hb hf hq hd
  rw [step_of_no_moves hm]
  exact issue_of_decode s hb hf hq hd

/-- Settles O8: a turn of a busy block finishes the sampled command, or takes the fault of an illegal word. -/
theorem busyBlockFinishesItsCommand : Obligations.BusyBlockFinishesItsCommand := by
  intro s hm hb hf hh
  rw [step_of_no_moves hm, issue_of_busy hf hb]
  refine ⟨fun i hd => finish_of_decode hh hd, fun hw => ?_⟩
  obtain ⟨e, hd⟩ := decode_error_of_notMem hw
  rw [finish_of_illegal hd, illegalCommand_eq]

/-- Settles O39: in each state of `Result` the only latch that can be valid is the command's result. -/
theorem onlyTheResultLatchIsValid : Obligations.OnlyTheResultLatchIsValid := by
  intro i s t h
  have hres := result_of_exec h
  refine ⟨fun l hl => hres.validBit_eq_true hl, fun hpc l hl => ?_⟩
  cases hres with
  | word _ _ hr | temp _ _ hr | int _ _ hr | bool _ _ hr =>
    obtain rfl := Option.some.inj (hl.symm.trans hr)
    rfl
  | silent _ _ hr => simp [hr] at hl
  | fault => simp [State.faulted] at hpc

/-- Settles O36: such a command is a read-modify-write, whose field holds none of these bits. -/
theorem onlyWrregChangesAlAndUnassignedBits : Obligations.OnlyWrregChangesAlAndUnassignedBits := by
  intro i s t es w' hi h hes hw'
  obtain ⟨f, v, w, hm, rfl, rfl⟩ := cfg_write_follows_read hi h hes hw'
  exact ⟨w, rfl, fun j hj => packField_keeps_al_and_unassigned (readModifyWrite_ne_al hm) w v hj⟩

/-- Settles O9: the command's field and stored value fix the bits of the word, and the turn is the write of it. -/
theorem halfwaySetterWritesFromCfgl : Obligations.HalfwaySetterWritesFromCfgl := by
  intro i cmd new s before hcase hm hb hf hh hcmd
  have hwrite : ∃ f v, decode cmd = .ok i ∧ cmd = encode i ∧ readModifyWrite i s.port = some (f, v) ∧
      ∀ j, j < 16 → (packField s.cfgl f.field v).getLsbD j = (new j).getD (s.cfgl.getLsbD j) := by
    rcases hcase with
      ⟨b, hmem, rfl⟩ | ⟨rfl, rfl, -, rfl⟩ | ⟨hi, lo, rfl, rfl, hmem, rfl⟩ | ⟨hi, lo, rfl, rfl, hmem, rfl⟩
    · simp only [List.mem_cons, Prod.mk.injEq, List.not_mem_nil, or_false] at hmem
      rcases hmem with ⟨rfl, rfl, rfl⟩ | ⟨rfl, rfl, rfl⟩ | ⟨rfl, rfl, rfl⟩ | ⟨rfl, rfl, rfl⟩ <;>
        exact ⟨_, _, rfl, rfl, rfl, fun j hj =>
          packField_storedBool_getLsbD s.cfgl (ConfigField.field_wf _) rfl s.port.b hj⟩
    · exact ⟨_, _, rfl, rfl, rfl, fun j hj =>
        packField_storedBool_getLsbD s.cfgl ConfigField.ss.field_wf rfl true hj⟩
    · exact ⟨_, _, rfl, rfl, by rw [readModifyWrite, cycleTimeCode_of_mem hmem]; rfl, fun j hj =>
        packField_twoBits_getLsbD s.cfgl ConfigField.cr.field_wf rfl hi lo hj⟩
    · exact ⟨_, _, rfl, rfl, by rw [readModifyWrite, faultCountCode_of_mem hmem]; rfl, fun j hj =>
        packField_twoBits_getLsbD s.cfgl ConfigField.cf.field_wf rfl hi lo hj⟩
  obtain ⟨f, v, hd, henc, hrmw, hbits⟩ := hwrite
  refine ⟨packField s.cfgl f.field v, hbits, ?_⟩
  rw [step_of_no_moves hm, issue_of_busy hf hb, finish_of_halfway hh (hcmd ▸ hd) hrmw]
  rcases writeBack_cases s i before f v with ⟨ha, e⟩ | ⟨ha, e⟩ <;> rw [e]
  · exact ⟨fun _ => rfl, fun ha' => absurd (ha.symm.trans ha') (by decide)⟩
  · refine ⟨fun ha' => absurd (ha.symm.trans ha') (by decide), fun _ => ?_⟩
    simp [State.portFault, State.takeFault, FaultReg.record_clear _ _ _ hf, State.drawn, henc, Cause.code, RegAddr.code]

/-- Settles O10: the second part of a command is its outcome, or the read of a read-modify-write, after which either move
makes the write. -/
theorem partsMakeUpTheCommand : Obligations.PartsMakeUpTheCommand := by
  intro s q i m rest hmove hb hf hq hd
  have haccept {ms : List Move} (hms : s.moves = .part :: ms) :
      step s = .next (({ s with moves := ms } : State).accept q) :=
    (step_of_moves hms).trans (advance_of_idle (s := { s with moves := ms }) hb hf hq)
  refine ⟨haccept, fun hms => ?_, fun hms => ?_⟩
  · rw [core_run_of_step (haccept hms), core_run_one, step_of_moves rfl]
    exact (issue_of_busy (s := ({ s with moves := rest } : State).accept q) hf rfl).trans (finish_accept hd)
  · have hsecond : step (({ s with moves := .part :: m :: rest } : State).accept q) =
        advance (({ s with moves := m :: rest } : State).accept q) := rfl
    have hrun : core.run 2 s = advance (({ s with moves := m :: rest } : State).accept q) :=
      (core_run_of_step (haccept hms)).trans (core_run_one _)
    cases hm : readModifyWrite i q with
    | none => exact .inl (hrun.trans (advance_accept_of_none hf hd hm))
    | some p =>
      obtain ⟨f, v⟩ := p
      have hread := advance_accept_of_some (s := { s with moves := m :: rest }) hf hd hm
      rcases readHalf_cases (({ s with moves := m :: rest } : State).present q) i with
        ⟨w, hr, hw, e⟩ | ⟨w, hr, hw, -⟩ | ⟨hr, -⟩
      · rw [e] at hread
        refine .inr ⟨_, w, hrun.trans hread, hr, portPattern_of_readModifyWrite hm, rfl, rfl, rfl, rfl, rfl, ?_⟩
        have hwrite := exec_of_writesAfter (s := { s with moves := rest, port := q }) hm hr hw
        rw [core_run_of_step (haccept hms), core_run_of_step (hsecond.trans hread), core_run_one, step_of_moves rfl]
        exact (serve_halfDone (s := { s with moves := rest, port := q }) (w := w) hmove hf hd hm).trans hwrite.symm
      · exact .inl (hrun.trans (hread.trans (exec_eq_readHalf hm (by simp [hr, hw])).symm))
      · exact .inl (hrun.trans (hread.trans (exec_eq_readHalf hm (by simp [hr])).symm))

/-- Settles O42: the two runs end in states that differ in CFGL and in the values of invalid latches alone. -/
theorem resultsDoNotDependOnLatches : Obligations.ResultsDoNotDependOnLatches := by
  intro i s t t' rw rt rn rb c h h'
  obtain ⟨u, u', hu, hu', ⟨hrest, hrw, hrt, hrn, hrb⟩⟩ :=
    exec_showAlike s { rw := rw, rt := rt, rn := rn, rb := rb, cfgl := c } i
  obtain rfl : u = t := Host.Outcome.next.inj (hu.symm.trans h)
  obtain rfl : u' = t' := Host.Outcome.next.inj (hu'.symm.trans h')
  have hfield {α : Type} (g : State → α) : g u' = g (u.withLatches u'.latches) := congrArg g hrest
  exact ⟨hrw, hrt, hrn, hrb, hfield State.fault, hfield State.history, hfield State.bank, hfield State.draws,
    hfield State.pc, hfield State.busy⟩

end

section
/-! PROOF. The register port (20_memory): the history only grows; what a command's transactions, all
of one register, leave in the history, on the bus and in the store oracle's image; a read is two bytes or a fault. -/

namespace Sys2Proof.Machine

section

variable {s t : State} {i : Instr} {r : RegAddr}

/-! ## The history -/

theorem Result.history_prefix (h : Result i s t) : s.history <+: t.history := by
  obtain ⟨es, hes, -⟩ := h.events
  exact ⟨es, hes.symm⟩

theorem writeBack_history_prefix (s : State) (i : Instr) (before : Word) (f : ConfigField) (v : Int) :
    s.history <+: (writeBack i before f v s).history := by
  rcases writeBack_cases s i before f v with ⟨-, e⟩ | ⟨-, e⟩ <;> rw [e]
  · exact List.prefix_append _ _
  · exact List.prefix_rfl

theorem readHalf_history_prefix (s : State) (i : Instr) : s.history <+: (readHalf i s).history := by
  rcases readHalf_cases s i with ⟨w, -, -, e⟩ | ⟨w, -, -, e⟩ | ⟨-, e⟩ <;> rw [e]
  · exact List.prefix_append _ _
  · exact List.prefix_append _ _
  · exact List.prefix_rfl

theorem Turn.history_prefix (h : Turn s t) : s.history <+: t.history := by
  cases h with
  | waits | illegal => exact List.prefix_rfl
  | runs q i _ _ _ _ he => exact (result_of_exec he).history_prefix
  | writes i before f v => exact writeBack_history_prefix s i before f v

theorem Part.history_prefix (h : Part s t) : s.history <+: t.history := by
  cases h with
  | turn _ ht => exact ht.history_prefix
  | accepts => exact List.prefix_rfl
  | reads i => exact readHalf_history_prefix s i

theorem Served.history_prefix {x : Move} (h : Served s x t) : s.history <+: t.history := by
  cases h with
  | reset | read | noRead => exact List.prefix_rfl
  | turn _ ht => exact ht.history_prefix
  | part _ hp => exact hp.history_prefix

/-! ## The transactions of one command -/

/-- The events one command can complete: none, a read, a write, or a read and a write, all of register `r` (30_encoding R87). -/
inductive CommandEvents (r : RegAddr) : List Event → Prop where
  | none : CommandEvents r []
  | read (w : Word) : CommandEvents r [.rd r w]
  | write (w : Word) : CommandEvents r [.wr r w]
  | readWrite (w w' : Word) : CommandEvents r [.rd r w, .wr r w']

/-- A command's transactions are of one register: a write alone, or at most a read and then a write. -/
theorem portPattern_shape (i : Instr) : ∃ r, portPattern i = [(true, r)] ∨ portPattern i <+: [(false, r), (true, r)] := by
  cases i
  case dect | enct | c2f | f2c | pack | unpack => exact ⟨.cfg, .inr List.nil_prefix⟩
  case rdregTval | rdregCfg | rdregTlow | rdregThigh | rdtempC | rdtempF | getthLowC | getthLowF | getthHighC | getthHighF
    | getfAl | getfCr | getfSm | getfIm | getfPol | getfCf | getfSs => exact ⟨_, .inr (List.prefix_append [_] [_])⟩
  case wrregCfg | wrregTlow | wrregThigh | setthLow | setthHigh => exact ⟨_, .inl rfl⟩
  case setfCr | setfSm | setfIm | setfPol | setfCf | setfSs | trigss => exact ⟨_, .inr List.prefix_rfl⟩

/-- As far as they go, the events of a command that only writes. -/
theorem commandEvents_of_prefix_write {es : List Event} (h : es.map eventKind <+: [(true, r)]) : CommandEvents r es := by
  rcases es with _ | ⟨⟨q, w⟩ | ⟨q, w⟩, es⟩ <;> simp [eventKind] at h
  · exact .none
  · obtain ⟨rfl, rfl⟩ := h
    exact .write w

/-- As far as they go, the events of a command that reads and then writes. -/
theorem commandEvents_of_prefix_readWrite {es : List Event} (h : es.map eventKind <+: [(false, r), (true, r)]) :
    CommandEvents r es := by
  rcases es with _ | ⟨⟨q, w⟩ | ⟨q, w⟩, es⟩ <;> simp [eventKind] at h
  · exact .none
  · obtain ⟨rfl, h⟩ := h
    rcases es with _ | ⟨⟨q', w'⟩ | ⟨q', w'⟩, es⟩ <;> simp [eventKind] at h
    · exact .read w
    · obtain ⟨rfl, rfl⟩ := h
      exact .readWrite w w'

theorem Result.commandEvents (h : Result i s t) :
    ∃ r es, CommandEvents r es ∧ t.history = s.history ++ es ∧ es.map eventKind <+: portPattern i := by
  obtain ⟨es, hes, hp⟩ := h.events
  obtain ⟨r, hr | hr⟩ := portPattern_shape i
  · exact ⟨r, es, commandEvents_of_prefix_write (hr ▸ hp), hes, hp⟩
  · exact ⟨r, es, commandEvents_of_prefix_readWrite (hp.trans hr), hes, hp⟩

/-! ## The bus and the store oracle -/

/-- The frames of a command's events follow those on the bus before (20_memory R53 to R55). -/
theorem Result.busTrace_eq (h : Result i s t) {es : List Event} (hes : t.history = s.history ++ es) :
    t.busTrace = s.busTrace ++ es.flatMap (Event.frames s.params.devAddr) := by
  rw [State.busTrace, h.sameSetup.1, hes, List.flatMap_append, State.busTrace]

/-- The frames of a command's events, one after the other. -/
theorem CommandEvents.frames {es : List Event} (h : CommandEvents r es) (dev : BitVec 7) : ∃ w w',
    (es = [] ∧ es.flatMap (Event.frames dev) = []) ∨
    (es = [.rd r w] ∧ es.flatMap (Event.frames dev) = [.write dev [selectByte r], .read dev [wordHi w, wordLo w]]) ∨
    (es = [.wr r w] ∧ es.flatMap (Event.frames dev) = [.write dev [selectByte r, wordHi w, wordLo w]]) ∨
    (es = [.rd r w, .wr r w'] ∧ es.flatMap (Event.frames dev) = [.write dev [selectByte r],
      .read dev [wordHi w, wordLo w], .write dev [selectByte r, wordHi w', wordLo w']]) := by
  cases h with
  | none => exact ⟨0, 0, .inl ⟨rfl, rfl⟩⟩
  | read w => exact ⟨w, 0, .inr (.inl ⟨rfl, rfl⟩)⟩
  | write w => exact ⟨w, 0, .inr (.inr (.inl ⟨rfl, rfl⟩))⟩
  | readWrite w w' => exact ⟨w, w', .inr (.inr (.inr ⟨rfl, rfl⟩))⟩

/-- The two bytes of a word on the wire make it up, the most significant first (20_memory R53). -/
theorem toNat_eq_wordHi_wordLo (w : Word) : w.toNat = (wordHi w).toNat * 256 + (wordLo w).toNat := by
  rw [← wordOfBytes_toNat, wordOfBytes_split]

theorem selectByte_mem (r : RegAddr) :
    (r, selectByte r) ∈ [(.tval, 0x00), (.cfg, 0x01), (.tlow, 0x02), ((.thigh, 0x03) : RegAddr × Byte)] := by
  cases r <;> decide

/-- The store oracle keeps its initial image: what was written since stands in the history (20_memory R58). -/
theorem Result.bank_store {m0 : Image} (h : Result i s t) (hs : s.bank = .store m0) : t.bank = .store m0 := by
  cases h <;> simp [State.completed, State.faulted, hs]

/-- A command's events change the store oracle's word of `r` only where the last is a write of `r` (20_memory R58). -/
theorem CommandEvents.storeWord_append {q : RegAddr} {es : List Event} (h : CommandEvents q es) (m0 : Image)
    (hist : List Event) (r : RegAddr) :
    storeWord m0 (hist ++ es) r = storeWord m0 hist r ∨
    ∃ w, .wr r w ∈ es ∧ (hist ++ es).getLast? = some (.wr r w) ∧ storeWord m0 (hist ++ es) r = w := by
  have hwrite (hist : List Event) (w : Word) :
      storeWord m0 (hist ++ [.wr q w]) r = storeWord m0 hist r ∨ q = r ∧ storeWord m0 (hist ++ [.wr q w]) r = w := by
    rw [storeWord_append_wr]
    split
    · exact .inr ⟨‹_›, rfl⟩
    · exact .inl rfl
  cases h with
  | none => exact .inl (by rw [List.append_nil])
  | read w => exact .inl (storeWord_append_rd m0 hist r q w)
  | write w =>
    rcases hwrite hist w with hsame | ⟨rfl, hw⟩
    · exact .inl hsame
    · exact .inr ⟨w, by simp, by simp, hw⟩
  | readWrite w w' =>
    rw [List.append_cons]
    rcases hwrite (hist ++ [.rd q w]) w' with hsame | ⟨rfl, hw⟩
    · exact .inl (hsame.trans (storeWord_append_rd m0 hist r q w))
    · exact .inr ⟨w', by simp, by simp, hw⟩

/-! ## A read of the port -/

/-- Two bytes are answered as their word (20_memory R53). -/
theorem portRead_of_bytes {a : PortAnswer} {rest : List PortAnswer} {b0 b1 : Byte} (hb : s.bank = .oracle (a :: rest))
    (ha : a.read = .bytes b0 b1) : s.portRead r = some (wordOfBytes b0 b1) := by
  simp [State.portRead, State.readAnswer, hb, ha, ReadAnswer.toWord]

/-- Fewer bytes, or none, are answered as Fail (20_memory R56, 70_reset R258). -/
theorem portRead_of_failed {a : PortAnswer} {rest : List PortAnswer} (hb : s.bank = .oracle (a :: rest))
    (ha : (∃ b0, a.read = .short b0) ∨ a.read = .failed) : s.portRead r = none := by
  rcases ha with ⟨b0, ha⟩ | ha <;> simp [State.portRead, State.readAnswer, hb, ha, ReadAnswer.toWord]

theorem memRead_of_some {w : Word} (h : s.portRead r = some w) (i : Instr) (k : Word → State → State) :
    memRead i r k s.start = k w (s.start.logged (.rd r w)) := by
  simp [memRead, h]

theorem memRead_of_none (h : s.portRead r = none) (i : Instr) (k : Word → State → State) :
    memRead i r k s.start = s.start.drawn.portFault i .portReadFault r := by
  simp [memRead, h]

/-- SETF.CR discards none of the cycle times (42_config_fields R191). -/
theorem cycleTimeCode_ne_none {n : Int} (h : n ∈ [4000, 1000, 250, 125]) : cycleTimeCode n ≠ none := by
  simp only [List.mem_cons, List.not_mem_nil, or_false] at h
  rcases h with rfl | rfl | rfl | rfl <;> decide

/-- SETF.CF discards no count from 1 to 4 (42_config_fields R192). -/
theorem faultCountCode_ne_none {n : Int} (h : 1 ≤ n ∧ n ≤ 4) : faultCountCode n ≠ none := by
  rw [faultCountCode, if_neg (by omega)]
  exact Option.some_ne_none _

/-- A command whose first transaction is a read, and that discards nothing, is that read and what follows it, which only adds to
the history. -/
theorem exec_of_read_first (hp : (portPattern i).head? = some (false, r))
    (hcr : i = .setfCr → s.port.n ∈ [4000, 1000, 250, 125]) (hcf : i = .setfCf → 1 ≤ s.port.n ∧ s.port.n ≤ 4) :
    ∃ k, exec i s = .next (memRead i r k s.start) ∧ ∀ w u, u.history <+: (k w u).history := by
  cases hm : readModifyWrite i s.port with
  | some p =>
    obtain ⟨f, v⟩ := p
    rw [portPattern_of_readModifyWrite hm] at hp
    cases hp
    refine ⟨_, exec_of_readModifyWrite hm, fun w u => ?_⟩
    split
    · exact writeBack_history_prefix { u with cfgl := w } i s.cfgl f v
    · exact List.prefix_rfl
  | none =>
    cases i
    case rdregTval | rdregCfg | rdregTlow | rdregThigh | rdtempC | rdtempF | getthLowC | getthLowF | getthHighC
      | getthHighF | getfAl | getfCr | getfSm | getfIm | getfPol | getfCf | getfSs =>
      cases hp
      exact ⟨_, rfl, fun _ _ => List.prefix_rfl⟩
    case setfCr => exact absurd (Option.map_eq_none_iff.mp hm) (cycleTimeCode_ne_none (hcr rfl))
    case setfCf => exact absurd (Option.map_eq_none_iff.mp hm) (faultCountCode_ne_none (hcf rfl))
    case setfSm | setfIm | setfPol | setfSs | trigss => cases hm
    all_goals cases hp

/-- RDREG puts the word read into RW (41_register_port). -/
theorem exec_rdreg_of_portRead {w : Word} (hi : i ∈ [.rdregTval, .rdregCfg, .rdregTlow, .rdregThigh])
    (hp : (portPattern i).head? = some (false, r)) (hr : s.portRead r = some w) :
    exec i s = .next { s.completed [.rd r w] with rw := { value := w, valid := true } } := by
  have he : exec i s = .next (readCommand i r State.setRW s) := by
    simp only [List.mem_cons, List.not_mem_nil, or_false] at hi
    rcases hi with rfl | rfl | rfl | rfl <;> cases hp <;> rfl
  rw [he, readCommand, memRead_of_some hr]
  rfl

end
end Sys2Proof.Machine

open Sys2Proof Sys2Proof.Machine

/-- Settles O13: a step is a turn or a scheduled move, and each appends the events of the transactions it completes. -/
theorem stepOnlyAppendsToTheHistory : Obligations.StepOnlyAppendsToTheHistory := by
  intro s t h
  rcases step_cases h with ⟨-, ht⟩ | ⟨x, rest, -, hx⟩
  · exact ht.history_prefix
  · exact hx.history_prefix

/-- Settles O27: the command is its read and what follows, and a read that is not two bytes ends it in PortReadFault. -/
theorem readsComposeBytesOrFault : Obligations.ReadsComposeBytesOrFault := by
  intro i r reg s a rest hreg hp hcr hcf hb
  obtain rfl : reg = r.code := by
    simp only [List.mem_cons, Prod.mk.injEq, List.not_mem_nil, or_false] at hreg
    rcases hreg with ⟨rfl, rfl⟩ | ⟨rfl, rfl⟩ | ⟨rfl, rfl⟩ | ⟨rfl, rfl⟩ <;> rfl
  obtain ⟨k, he, hk⟩ := exec_of_read_first hp hcr hcf
  refine ⟨fun b0 b1 ha => ?_, fun ha => ?_⟩
  · have hr : s.portRead r = some (wordOfBytes b0 b1) := portRead_of_bytes hb ha
    rw [memRead_of_some hr] at he
    refine ⟨_, _, he, wordOfBytes_toNat b0 b1, hr, hk _ (s.start.logged (.rd r (wordOfBytes b0 b1))), fun hi => ?_⟩
    have ht := Host.Outcome.next.inj (he.symm.trans (exec_rdreg_of_portRead hi hp hr))
    rw [ht]
    exact ⟨rfl, by simp [State.completed, hb, Bank.advance]⟩
  · have hr : s.portRead r = none := portRead_of_failed hb ha
    rw [memRead_of_none hr, portFault_eq] at he
    exact ⟨_, he, rfl, rfl, List.append_nil _, by simp [State.faulted, hb, Bank.advance], rfl⟩

/-- Settles O28: the command's events are of one register, and each is put on the bus as its frames. -/
theorem busFramesAreMsbFirst : Obligations.BusFramesAreMsbFirst := by
  intro i s t h
  have hres := result_of_exec h
  obtain ⟨r, es, hevents, hes, -⟩ := hres.commandEvents
  obtain ⟨w, w', hframes⟩ := hevents.frames s.params.devAddr
  exact ⟨es, _, r, selectByte r, w, w', wordHi w, wordLo w, wordHi w', wordLo w', hes, hres.busTrace_eq hes,
    selectByte_mem r, toNat_eq_wordHi_wordLo w, toNat_eq_wordHi_wordLo w', hframes⟩

/-- Settles O44: the image is a function of the history, to which the command adds at most a read and a write of one
register. -/
theorem storeImageChangesOnlyWhereWritten : Obligations.StoreImageChangesOnlyWhereWritten := by
  intro i s t m0 r hs h
  have hres := result_of_exec h
  obtain ⟨q, es, hevents, hes, hp⟩ := hres.commandEvents
  refine ⟨hres.bank_store hs, ?_⟩
  rw [hes]
  rcases hevents.storeWord_append m0 s.history r with hsame | ⟨w, hw, hlast, hword⟩
  · exact .inl hsame
  · exact .inr ⟨w, hp.subset (List.mem_map_of_mem (f := eventKind) hw), hlast, hword⟩

end

section
/-! PROOF. Encoding (30_encoding): the decoder takes a word to a command exactly where it is the command's word; an illegal word
faults; a command's port events are those of the opcode map; a command reads the operand ports of its row alone; the aliases and
APPLYDEF stand for the preset. -/

namespace Sys2Proof

/-! ## The command word -/

/-- A command word is its class and its selector (30_encoding R81). -/
theorem Byte.cls_append_sel (cmd : Byte) : cmd.cls ++ cmd.sel = cmd :=
  (BitVec.extractLsb'_append_extractLsb'_eq_extractLsb' rfl).trans BitVec.extractLsb'_eq_self

/-- Every selector that `d` decodes in class `cls` makes up with it the word of the command decoded to. -/
abbrev DecodesClass (cls : BitVec 4) (d : BitVec 4 → Except Illegal Instr) : Prop :=
  ∀ sel, ∀ i ∈ (d sel).toOption, cls ++ sel = encode i

theorem DecodesClass.word {cls : BitVec 4} {d : BitVec 4 → Except Illegal Instr} (hd : DecodesClass cls d) {cmd : Byte}
    {i : Instr} (hc : cmd.cls.toNat = cls.toNat) (h : d cmd.sel = .ok i) : cmd = encode i := by
  rw [← cmd.cls_append_sel, BitVec.eq_of_toNat_eq hc]
  exact hd cmd.sel i (by rw [h]; rfl)

/-- A word that decodes is its command's word: in each class the selectors are those of the formats (30_encoding R81 to R86). -/
theorem eq_encode_of_decode {cmd : Byte} {i : Instr} (h : decode cmd = .ok i) : cmd = encode i := by
  unfold decode at h
  split at h
  case h_1 hc => exact (by decide : DecodesClass 1 decodeCodec).word hc h
  case h_2 hc => exact (by decide : DecodesClass 2 decodeRdreg).word hc h
  case h_3 hc => exact (by decide : DecodesClass 3 decodeWrreg).word hc h
  case h_4 hc => exact (by decide : DecodesClass 4 decodeRdtemp).word hc h
  case h_5 hc => exact (by decide : DecodesClass 5 decodeGetth).word hc h
  case h_6 hc => exact (by decide : DecodesClass 6 decodeSetth).word hc h
  case h_7 hc => exact (by decide : DecodesClass 7 decodeGetf).word hc h
  case h_8 hc => exact (by decide : DecodesClass 8 decodeSetf).word hc h
  case h_9 hc => exact (by decide : DecodesClass 9 decodeSingle).word hc h
  case h_10 => cases h

/-- Every command's word decodes to it. -/
theorem decode_encode (i : Instr) : decode (encode i) = .ok i := by cases i <;> rfl

end Sys2Proof

namespace Sys2Proof.Machine

/-- The legal ones of the 256 words are as many as the opcode map lists (30_encoding R87, R89). -/
theorem length_filter_decode_isOk :
    ((List.range 256).filter fun n => (decode (BitVec.ofNat 8 n)).isOk).length = mapWords.length := by
  have h (n : Nat) : (decode (BitVec.ofNat 8 n)).isOk = decide (BitVec.ofNat 8 n ∈ mapWords) := by
    rw [Bool.eq_iff_iff, decode_isOk_iff, decide_eq_true_iff]
  simp only [h]
  decide

/-- A block's turn with an illegal word to present (30_encoding R88). -/
theorem issue_of_illegal {s : State} {q : Request} {e : Illegal} (hb : s.busy = false) (hf : s.fault.set = false)
    (hq : s.prog[s.pc]? = some q) (hd : decode q.cmd = .error e) :
    issue s = .next (illegalCommand q.cmd (s.present q)) := by
  simp [issue, hb, State.nextRequest, State.accepts, hf, hq, runRequest, hd]

section

variable {s t : State} {i : Instr}

/-! ## The port events -/

/-- The commands that complete early, in the words of the spec (42_config_fields R191, R192, R199). -/
theorem completesEarly_spec {q : Request} {es : List Event} (h : completesEarly i q es) :
    (i = .setfCr ∧ q.n ∉ [4000, 1000, 250, 125] ∧ es = []) ∨ (i = .setfCf ∧ (q.n < 1 ∨ 4 < q.n) ∧ es = []) ∨
    (i = .trigss ∧ ∃ w, es = [.rd .cfg w] ∧ w.getLsbD 8 = false) := by
  rcases h with ⟨hi, hn, he⟩ | ⟨hi, hn, he⟩ | ⟨hi, w, he, hw⟩
  · exact .inl ⟨hi, fun hmem => cycleTimeCode_ne_none hmem hn, he⟩
  · refine .inr (.inl ⟨hi, ?_, he⟩)
    by_contra hrange
    exact faultCountCode_ne_none (by omega) hn
  · exact .inr (.inr ⟨hi, w, he, (unpackBool_eq w .sm rfl).symm.trans hw⟩)

/-- A command that is Done has all the events of the opcode map, or is one that completes early (30_encoding R87). -/
theorem Result.events_of_done (h : Result i s t) : ∃ es, t.history = s.history ++ es ∧
    es.map eventKind <+: portPattern i ∧
    (t.pc = s.pc + 1 → es.map eventKind = portPattern i ∨ completesEarly i s.port es) := by
  cases h with
  | word es _ _ hp | temp es _ _ hp | int es _ _ hp | bool es _ _ hp => exact ⟨es, rfl, by rw [hp], fun _ => .inl hp⟩
  | silent es _ _ hp hd => exact ⟨es, rfl, hp, fun _ => hd⟩
  | fault _ _ es _ _ _ hp => exact ⟨es, rfl, hp, fun hpc => by simp [State.faulted] at hpc⟩

end

/-! ## The same command on another request -/

/-- An operation that neither reads nor changes the sampled request. -/
abbrev RequestBlind (f : State → State) : Prop := ∀ (s : State) (q : Request), f (s.present q) = (f s).present q

variable (s : State) (q : Request) {i : Instr} {r : RegAddr}

theorem compute_present {f : State → State} (hf : RequestBlind f) :
    compute f (s.present q) = (compute f s).present q := congrArg State.done (hf s.start q)

theorem fieldCommand_present {f : State → State} (hf : RequestBlind f) (hq : s.port.field = q.field) :
    fieldCommand i f (s.present q) = (fieldCommand i f s).present q := by
  unfold fieldCommand
  rw [State.present_port, ← hq]
  split
  · exact compute_present s q hf
  · rfl

theorem memRead_present {k k' : Word → State → State} (hk : ∀ w t, k' w (t.present q) = (k w t).present q) :
    memRead i r k' (s.present q) = (memRead i r k s).present q := by
  unfold memRead
  rw [portRead_present]
  cases s.portRead r with
  | some w => exact hk w (s.logged (.rd r w))
  | none => rfl

theorem readCommand_present {f : Word → State → State} (hf : ∀ w, RequestBlind (f w)) :
    readCommand i r f (s.present q) = (readCommand i r f s).present q :=
  memRead_present s.start q fun w t => congrArg State.done (hf w t q)

theorem writeCommand_present (w : Word) : writeCommand i r w (s.present q) = (writeCommand i r w s).present q := by
  unfold writeCommand memWrite
  rw [portAck_start, portAck_start, portAck_present]
  split <;> rfl

theorem thresholdCommand_present (x : Temp) :
    thresholdCommand i r x (s.present q) = (thresholdCommand i r x s).present q := by
  unfold thresholdCommand
  cases encodeTemp x with
  | some w => exact writeCommand_present s q w
  | none => rfl

theorem writeBack_present (before : Word) (f : ConfigField) (v : Int) :
    writeBack i before f v (s.present q) = (writeBack i before f v s).present q := by
  unfold writeBack
  rw [portAck_present, State.present_cfgl]
  split <;> rfl

/-- A read-modify-write, or a setter that discards its value, reads no more of a request than the field and the value to
write. -/
theorem exec_present_of_writes_cfg (hp : portPattern i = [(false, .cfg), (true, .cfg)])
    (hq : readModifyWrite i q = readModifyWrite i s.port) :
    ∃ t, exec i s = .next t ∧ exec i (s.present q) = .next (t.present q) := by
  cases hm : readModifyWrite i s.port with
  | none => exact ⟨_, exec_of_discarded hp hm, exec_of_discarded (s := s.present q) hp (hq.trans hm)⟩
  | some p =>
    refine ⟨_, exec_of_readModifyWrite hm, (exec_of_readModifyWrite (s := s.present q) (hq.trans hm)).trans ?_⟩
    refine congrArg Host.Outcome.next (memRead_present s.start q fun w t => ?_)
    split
    · exact writeBack_present { t with cfgl := w } q s.cfgl p.1 p.2
    · rfl

/-- Two requests alike on the ports a command reads ask the same read-modify-write of it. -/
theorem readModifyWrite_congr {p q : Request} (h : ∀ x ∈ i.operands, samePort p q x) :
    readModifyWrite i q = readModifyWrite i p := by
  cases i
  case setfCr | setfCf =>
    have hn : p.n = q.n := h .n (.head _)
    simp only [readModifyWrite, hn]
  case setfSm | setfIm | setfPol | setfSs =>
    have hb : p.b = q.b := h .b (.head _)
    simp only [readModifyWrite, hb]
  all_goals rfl

theorem requestField_congr {p q : Request} (ho : p.off = q.off) (hw : p.wid = q.wid) : p.field = q.field := by
  rw [Request.field, ho, hw, Request.field]

/-- What a command does depends on the sampled request only through the operand ports it reads (30_encoding R80, R87). -/
theorem exec_present (h : ∀ x ∈ i.operands, samePort s.port q x) :
    ∃ t, exec i s = .next t ∧ exec i (s.present q) = .next (t.present q) := by
  cases i
  case dect =>
    have ha : s.port.a = q.a := h .a (by decide)
    refine ⟨_, rfl, congrArg Host.Outcome.next ?_⟩
    rw [State.present_port, ← ha]
    exact compute_present s q fun _ _ => rfl
  case enct =>
    have ht : s.port.t = q.t := h .t (by decide)
    refine ⟨_, rfl, congrArg Host.Outcome.next ?_⟩
    rw [State.present_port, ← ht]
    cases encodeTemp s.port.t with
    | some w => exact compute_present s q (f := State.setRW w) fun _ _ => rfl
    | none => rfl
  case c2f | f2c =>
    have ht : s.port.t = q.t := h .t (by decide)
    refine ⟨_, rfl, congrArg Host.Outcome.next ?_⟩
    rw [State.present_port, State.present_params, ← ht]
    exact compute_present s q fun _ _ => rfl
  case pack =>
    have ha : s.port.a = q.a := h .a (by decide)
    have hn : s.port.n = q.n := h .n (by decide)
    have hf : s.port.field = q.field := requestField_congr (h .off (by decide)) (h .wid (by decide))
    refine ⟨_, rfl, congrArg Host.Outcome.next ?_⟩
    rw [State.present_port, ← ha, ← hn, ← hf]
    exact fieldCommand_present s q (fun _ _ => rfl) hf
  case unpack =>
    have ha : s.port.a = q.a := h .a (by decide)
    have hf : s.port.field = q.field := requestField_congr (h .off (by decide)) (h .wid (by decide))
    refine ⟨_, rfl, congrArg Host.Outcome.next ?_⟩
    rw [State.present_port, ← ha, ← hf]
    exact fieldCommand_present s q (fun _ _ => rfl) hf
  case rdregTval | rdregCfg | rdregTlow | rdregThigh | rdtempC | rdtempF | getthLowC | getthLowF | getthHighC | getthHighF
    | getfAl | getfCr | getfSm | getfIm | getfPol | getfCf | getfSs =>
    exact ⟨_, rfl, congrArg Host.Outcome.next (readCommand_present s q fun _ _ _ => rfl)⟩
  case wrregCfg | wrregTlow | wrregThigh =>
    have ha : s.port.a = q.a := h .a (by decide)
    refine ⟨_, rfl, congrArg Host.Outcome.next ?_⟩
    rw [State.present_port, ← ha]
    exact writeCommand_present s q _
  case setthLow | setthHigh =>
    have ht : s.port.t = q.t := h .t (by decide)
    refine ⟨_, rfl, congrArg Host.Outcome.next ?_⟩
    rw [State.present_port, ← ht]
    exact thresholdCommand_present s q _
  case setfCr | setfSm | setfIm | setfPol | setfCf | setfSs | trigss =>
    exact exec_present_of_writes_cfg s q rfl (readModifyWrite_congr h)

end Sys2Proof.Machine

open Sys2Proof Sys2Proof.Machine

/-- Settles O2: a word that decodes is its command's word, and every command's word decodes to it. -/
theorem decodeExactlyTheEncodedWord : Obligations.DecodeExactlyTheEncodedWord := by
  intro cmd i
  refine ⟨eq_encode_of_decode, fun h => ?_⟩
  rw [h]
  exact decode_encode i

/-- Settles O5: the block's turn presents the word, which no command has. -/
theorem illegalCommandFaultsBeforeAnyEffect : Obligations.IllegalCommandFaultsBeforeAnyEffect := by
  intro s q hm hb hf hq hw
  obtain ⟨e, hd⟩ := decode_error_of_notMem hw
  rw [step_of_no_moves hm, issue_of_illegal hb hf hq hd, illegalCommand_eq]
  rfl

/-- Settles O40: a state that `Result` lists as completed has the events of the opcode map, or is one that completes early. -/
theorem portEventsFollowTheOpcodeMap : Obligations.PortEventsFollowTheOpcodeMap := by
  intro i s t h
  obtain ⟨es, hes, hp, hdone⟩ := (result_of_exec h).events_of_done
  exact ⟨es, hes, hp, fun hpc => (hdone hpc).imp_right completesEarly_spec⟩

/-- Settles O41: the command run on either request ends in the same state but for the sampled request. -/
theorem unreadOperandPortsAreIgnored : Obligations.UnreadOperandPortsAreIgnored := by
  intro i s t q hq h
  obtain ⟨t', he, hq'⟩ := exec_present s q hq
  obtain rfl : t' = t := Host.Outcome.next.inj (he.symm.trans h)
  exact hq'

/-- Settles O1: fifteen fixed words, by evaluation. -/
theorem decodeOfWordsOfTheMap : Obligations.DecodeOfWordsOfTheMap := by
  unfold Obligations.DecodeOfWordsOfTheMap
  decide

/-- Settles O3: the legal words are those of the opcode map, and the others are the rest of the 256. -/
theorem legalAndIllegalWordCounts : Obligations.LegalAndIllegalWordCounts := by
  have h := List.length_eq_length_filter_add (l := List.range 256) fun n => (decode (BitVec.ofNat 8 n)).isOk
  rw [length_filter_decode_isOk, List.length_range] at h
  have hlegal : mapWords.length = 35 := rfl
  exact ⟨length_filter_decode_isOk.trans hlegal, by omega⟩

/-- Settles O54: the text of the lines is fixed, and it assembles by evaluation, whatever the parameters. -/
theorem aliasesNameThePreset : Obligations.AliasesNameThePreset := by
  intro p
  exact ⟨rfl, rfl, rfl, rfl, rfl, rfl, rfl, rfl, rfl, rfl⟩

end

section
/-! PROOF. Codec (40_codec): the decoder's values and their order; truncation, encode and its round trips with decode; the
Fahrenheit formulas undo each other; a field packed and unpacked; what each codec command computes. -/

namespace Sys2Proof

/-! ## Decode -/

section

variable {w : Word}

theorem decodeLsb_of_lt (h : w.toNat < 32768) : decodeLsb w = w.toNat := if_pos h

theorem decodeLsb_of_le (h : 32768 ≤ w.toNat) : decodeLsb w = 1 - w.toNat := by
  rw [decodeLsb, if_neg (Nat.not_lt.mpr h), neg_sub]

@[simp] theorem decodeTemp_mul_lsb (w : Word) : decodeTemp w * 128 = decodeLsb w := by
  rw [decodeTemp, div_mul_cancel₀ _ (by norm_num)]

theorem decodeTemp_eq_div_iff {n : Int} : decodeTemp w = n / 128 ↔ decodeLsb w = n := by
  rw [decodeTemp, div_left_inj' (by norm_num), Int.cast_inj]

theorem decodeTemp_lt_div_iff {n : Int} : decodeTemp w < n / 128 ↔ decodeLsb w < n := by
  rw [decodeTemp, div_lt_div_iff_of_pos_right (by norm_num), Int.cast_lt]

theorem div_lt_decodeTemp_iff {n : Int} : n / 128 < decodeTemp w ↔ n < decodeLsb w := by
  rw [decodeTemp, div_lt_div_iff_of_pos_right (by norm_num), Int.cast_lt]

theorem decodeLsb_neg_iff : decodeLsb w < 0 ↔ 32768 ≤ w.toNat := by
  unfold decodeLsb
  split <;> omega

theorem decodeTemp_neg_iff : decodeTemp w < 0 ↔ 32768 ≤ w.toNat := by
  rw [← decodeLsb_neg_iff, ← decodeTemp_lt_div_iff, Int.cast_zero, zero_div]

/-- The numbers of LSB that decode gives (40_codec R107). -/
theorem exists_decodeLsb_eq_iff (n : Int) :
    (∃ w, decodeLsb w = n) ↔ 0 ≤ n ∧ n ≤ 32767 ∨ -65534 ≤ n ∧ n ≤ -32767 := by
  constructor
  · rintro ⟨w, rfl⟩
    have hw := w.isLt
    rcases Nat.lt_or_ge w.toNat 32768 with h | h
    · rw [decodeLsb_of_lt h]; omega
    · rw [decodeLsb_of_le h]; omega
  · rintro (hn | hn)
    · refine ⟨BitVec.ofNat 16 n.toNat, ?_⟩
      have hw : (BitVec.ofNat 16 n.toNat).toNat = n.toNat := by rw [BitVec.toNat_ofNat]; omega
      rw [decodeLsb_of_lt (by omega), hw]
      omega
    · refine ⟨BitVec.ofNat 16 (1 - n).toNat, ?_⟩
      have hw : (BitVec.ofNat 16 (1 - n).toNat).toNat = (1 - n).toNat := by rw [BitVec.toNat_ofNat]; omega
      rw [decodeLsb_of_le (by omega), hw]
      omega

/-- How far decode is from the two's-complement reading, in LSB (40_codec R106). -/
theorem decodeLsb_sub_toInt (h : 32768 ≤ w.toNat) : decodeLsb w - w.toInt = 65537 - 2 * w.toNat := by
  rw [decodeLsb_of_le h, BitVec.toInt_eq_toNat_cond]
  omega

theorem abs_decodeLsb_sub_toInt_le_one_iff (h : 32768 ≤ w.toNat) :
    |decodeLsb w - w.toInt| ≤ 1 ↔ w = 0x8000#16 ∨ w = 0x8001#16 := by
  rw [decodeLsb_sub_toInt h, abs_le]
  bv_omega

theorem decodeLsb_injective : Function.Injective decodeLsb := by
  intro v w h
  apply BitVec.eq_of_toNat_eq
  unfold decodeLsb at h
  split at h <;> split at h <;> omega

end

/-! ## Encode -/

section

variable {t : Temp} {q : Int} {w : Word}

/-- Truncation toward zero is the floor of a product not below zero, and the ceiling of one below (00_scope R15). -/
theorem truncLsb_eq_of_truncates (h : Machine.truncates (t * 128) q) : truncLsb t = q := by
  obtain ⟨hpos, hneg⟩ := h
  rcases le_or_gt 0 (t * 128) with h0 | h0
  · rw [truncLsb, Int.tdiv_eq_ediv_of_nonneg (Rat.num_nonneg.mpr h0), ← Rat.floor_def', Int.floor_eq_iff]
    exact hpos h0
  · have hnum : 0 ≤ -(t * 128).num := by simpa using (Rat.num_neg.mpr h0).le
    have hceil : truncLsb t = ⌈t * 128⌉ := by
      rw [Rat.ceil_def', truncLsb, ← Int.tdiv_eq_ediv_of_nonneg hnum, Int.neg_tdiv, neg_neg]
    rw [hceil, Int.ceil_eq_iff]
    exact hneg h0

@[simp] theorem truncLsb_decodeTemp (w : Word) : truncLsb (decodeTemp w) = decodeLsb w := by
  simp [truncLsb]

theorem encodeTemp_eq_some (hq : truncLsb t = q) (h1 : -32768 ≤ q) (h2 : q ≤ 32767) :
    encodeTemp t = some (BitVec.ofInt 16 q) := by
  simp [encodeTemp, encodable, hq, h1, h2]

theorem encodeTemp_eq_none (hq : truncLsb t = q) (h : q < -32768 ∨ 32767 < q) : encodeTemp t = none := by
  rw [encodeTemp, hq, if_neg]
  simp only [encodable, Bool.and_eq_true, decide_eq_true_eq]
  omega

/-! ## Encode after decode (40_codec R109) -/

theorem encodeTemp_decodeTemp_of_lt (h : w.toNat < 32768) : encodeTemp (decodeTemp w) = some w := by
  rw [encodeTemp_eq_some ((truncLsb_decodeTemp w).trans (decodeLsb_of_lt h)) (by omega) (by omega)]
  simp

/-- The two words of the upper half that encode answers after decode: each gives the other. -/
theorem encodeTemp_decodeTemp_of_le (h1 : 32768 ≤ w.toNat) (h2 : w.toNat ≤ 32769) :
    encodeTemp (decodeTemp w) = some (1#16 - w) := by
  rw [encodeTemp_eq_some ((truncLsb_decodeTemp w).trans (decodeLsb_of_le h1)) (by omega) (by omega)]
  have hword : BitVec.ofInt 16 (1 - w.toNat) = 1#16 - w := by
    apply BitVec.eq_of_toNat_eq
    rw [BitVec.toNat_ofInt, BitVec.toNat_sub, BitVec.toNat_ofNat]
    omega
  rw [hword]

theorem encodeTemp_decodeTemp_eq_none (h : 32770 ≤ w.toNat) : encodeTemp (decodeTemp w) = none :=
  encodeTemp_eq_none ((truncLsb_decodeTemp w).trans (decodeLsb_of_le (by omega))) (by omega)

/-- No word of the upper half is the encoding of the temperature it decodes to. -/
theorem encodeTemp_decodeTemp_ne (h : 32768 ≤ w.toNat) : encodeTemp (decodeTemp w) ≠ some w := by
  rcases Nat.lt_or_ge 32769 w.toNat with h2 | h2
  · rw [encodeTemp_decodeTemp_eq_none h2]; simp
  · rw [encodeTemp_decodeTemp_of_le h h2, Ne, Option.some_inj]
    bv_omega

end

/-! ## Unit conversion: the reference formulas undo each other (40_codec R103) -/

theorem toCelsius_toFahrenheit (x : Temp) : Numerics.reference.toCelsius (Numerics.reference.toFahrenheit x) = x := by
  simp only [Numerics.toCelsius, Numerics.toFahrenheit]; ring

theorem toFahrenheit_toCelsius (x : Temp) : Numerics.reference.toFahrenheit (Numerics.reference.toCelsius x) = x := by
  simp only [Numerics.toCelsius, Numerics.toFahrenheit]; ring

/-! ## Pack and unpack (40_codec R110) -/

/-- The field PACK and UNPACK refuse (40_codec R104). -/
theorem Request.not_field_wf {q : Request} (h : q.wid.toNat = 0 ∨ 16 < q.off.toNat + q.wid.toNat) : ¬ q.field.wf := by
  simp only [Field.wf, Request.field]
  omega

section

variable (w : Word) {f : Field}

theorem unpackField_packField (hf : f.wf) {v : Nat} (hv : v < 2 ^ f.wid) : unpackField (packField w f v) f = v := by
  refine Nat.eq_of_testBit_eq fun j => ?_
  rw [unpackField_testBit]
  by_cases hj : j < f.wid
  · have h16 := hf.2
    rw [packField_getLsbD w f v hf _ (by omega), if_pos (by omega), Nat.add_sub_cancel_left, BitVec.ofInt_natCast,
      BitVec.getLsbD_ofNat]
    have hj16 : j < 16 := by omega
    simp [hj, hj16]
  · have hvj : v < 2 ^ j := hv.trans_le (Nat.pow_le_pow_right (by omega) (Nat.not_lt.mp hj))
    simp [hj, Nat.testBit_lt_two_pow hvj]

theorem packField_unpackField (hf : f.wf) : packField w f (unpackField w f) = w := by
  refine BitVec.eq_of_getLsbD_eq fun j hj => ?_
  rw [packField_getLsbD w f _ hf j hj]
  split
  case isTrue hin =>
    obtain ⟨hle, hlt⟩ := hin
    rw [BitVec.ofInt_natCast, BitVec.getLsbD_ofNat, unpackField_testBit, Nat.add_sub_cancel' hle]
    have hwid : j - f.off < f.wid := by omega
    have h16 : j - f.off < 16 := by omega
    simp [hwid, h16]
  case isFalse => rfl

end

end Sys2Proof

namespace Sys2Proof.Machine

/-! ## The commands -/

variable {s : State}

@[simp] theorem State.completed_params (s : State) (es : List Event) : (s.completed es).params = s.params := rfl

theorem exec_dect (s : State) :
    exec .dect s = .next { s.completed [] with rt := { value := decodeTemp s.port.a, valid := true } } :=
  congrArg Host.Outcome.next (compute_setRT s _)

theorem exec_enct_of_some {w : Word} (h : encodeTemp s.port.t = some w) :
    exec .enct s = .next { s.completed [] with rw := { value := w, valid := true } } := by
  rw [exec, execEnct, h, ← compute_setRW]

theorem exec_enct_of_none (h : encodeTemp s.port.t = none) : exec .enct s = .next (s.faulted 3 0x11 none [] 0) := by
  rw [exec, execEnct, h]
  exact congrArg Host.Outcome.next (commandFault_eq s .enct .encodeRange)

theorem exec_c2f (s : State) : exec .c2f s =
    .next { s.completed [] with rt := { value := s.params.numerics.toFahrenheit s.port.t, valid := true } } :=
  congrArg Host.Outcome.next (compute_setRT s _)

theorem exec_f2c (s : State) : exec .f2c s =
    .next { s.completed [] with rt := { value := s.params.numerics.toCelsius s.port.t, valid := true } } :=
  congrArg Host.Outcome.next (compute_setRT s _)

theorem fieldCommand_of_wf {i : Instr} {k : State → State} (h : s.port.field.wf) :
    fieldCommand i k s = compute k s := by
  rcases fieldCommand_cases s i k with ⟨-, e⟩ | ⟨hn, -⟩
  · exact e
  · exact absurd h hn

theorem fieldCommand_of_not_wf {i : Instr} {k : State → State} (h : ¬ s.port.field.wf) :
    fieldCommand i k s = s.faulted 2 (encode i) none [] 0 := by
  rcases fieldCommand_cases s i k with ⟨hw, -⟩ | ⟨-, e⟩
  · exact absurd hw h
  · exact e.trans (commandFault_eq s i .packRange)

theorem exec_pack_of_wf (h : s.port.field.wf) : exec .pack s = .next { s.completed [] with
    rw := { value := packField s.port.a s.port.field s.port.n, valid := true } } :=
  congrArg Host.Outcome.next ((fieldCommand_of_wf h).trans (compute_setRW s _))

theorem exec_unpack_of_wf (h : s.port.field.wf) : exec .unpack s = .next { s.completed [] with
    rn := { value := unpackField s.port.a s.port.field, valid := true } } :=
  congrArg Host.Outcome.next ((fieldCommand_of_wf h).trans (compute_setRN s _))

end Sys2Proof.Machine

open Sys2Proof Sys2Proof.Machine

/-- Settles O15: each clause is the same fact of the number of LSB. -/
theorem dectValueSetAndOrder : Obligations.DectValueSetAndOrder := by
  refine ⟨fun x => ⟨?_, ?_⟩, fun v w h => ?_, fun w ⟨h1, h2⟩ => ?_, fun v w hv hvw => ?_⟩
  · rintro ⟨w, rfl⟩
    exact ⟨decodeLsb w, rfl, (exists_decodeLsb_eq_iff _).mp ⟨w, rfl⟩⟩
  · rintro ⟨n, rfl, hn⟩
    obtain ⟨w, hw⟩ := (exists_decodeLsb_eq_iff n).mpr hn
    exact ⟨w, decodeTemp_eq_div_iff.mpr hw⟩
  · exact decodeLsb_injective (decodeTemp_eq_div_iff.mp h)
  · have hlow : -32767 < decodeLsb w := div_lt_decodeTemp_iff.mp (by exact_mod_cast h1)
    have hupper : 32768 ≤ w.toNat := decodeTemp_neg_iff.mp h2
    rw [decodeLsb_of_le hupper] at hlow
    omega
  · refine decodeTemp_lt_div_iff.mpr ?_
    rw [decodeLsb_of_le hv, decodeLsb_of_le (by omega)]
    omega

/-- Settles O16: a word of the upper half decodes to 1 - r LSB and reads as r - 65536. -/
theorem dectIsNotTwosComplement : Obligations.DectIsNotTwosComplement := by
  refine ⟨fun w hw => ?_, ?_, by decide⟩
  · rw [decodeTemp_mul_lsb, ← Int.cast_sub]
    constructor
    · rw [decodeLsb_sub_toInt hw]
      push_cast
      ring
    · exact_mod_cast abs_decodeLsb_sub_toInt_le_one_iff hw
  · have hlsb : decodeLsb 0xFF38#16 = -65335 := by decide
    exact_mod_cast decodeTemp_eq_div_iff.mpr hlsb

/-- Settles O17: the quotient is the model's truncation, which encode accepts within 16 bits. -/
theorem enctTruncatesOrFaults : Obligations.EnctTruncatesOrFaults := by
  refine ⟨decode_encode .enct, fun s q hq => ⟨fun h1 h2 => ?_, fun h => ?_⟩⟩
  · exact exec_enct_of_some (encodeTemp_eq_some (truncLsb_eq_of_truncates hq) h1 h2)
  · exact exec_enct_of_none (encodeTemp_eq_none (truncLsb_eq_of_truncates hq) h)

/-- Settles O18: encode after decode gives the word itself below 0x8000 and no such word from there on. -/
theorem enctAfterDectRoundTrip : Obligations.EnctAfterDectRoundTrip := by
  refine ⟨fun s r hr => ⟨fun h => ?_, ?_, ?_, fun h => ?_⟩, fun t w hw => ⟨?_, ?_⟩⟩
  · exact exec_enct_of_some (hr ▸ encodeTemp_decodeTemp_of_lt (by omega))
  · rintro rfl
    exact exec_enct_of_some (hr ▸ encodeTemp_decodeTemp_of_le (by decide) (by decide))
  · rintro rfl
    exact exec_enct_of_some (hr ▸ encodeTemp_decodeTemp_of_le (by decide) (by decide))
  · exact exec_enct_of_none (hr ▸ encodeTemp_decodeTemp_eq_none h)
  · rintro k hk rfl
    obtain ⟨r, hr⟩ := (exists_decodeLsb_eq_iff k).mpr (by omega)
    have hlt : r.toNat < 32768 := by
      rw [← Nat.not_le, ← decodeLsb_neg_iff, hr]
      omega
    have hdec : decodeTemp r = (k : Rat) / 128 := decodeTemp_eq_div_iff.mpr hr
    rw [← hdec, encodeTemp_decodeTemp_of_lt hlt, Option.some_inj] at hw
    rw [← hw, hdec]
  · rintro hneg rfl
    exact encodeTemp_decodeTemp_ne (decodeTemp_neg_iff.mp hneg) hw

/-- Settles O19: each command puts its conversion of the operand in RT, and the reference conversions are inverses. -/
theorem fahrenheitConversions : Obligations.FahrenheitConversions := by
  refine ⟨decode_encode .c2f, decode_encode .f2c, fun s => ?_⟩
  have hc := exec_c2f s
  have hf := exec_f2c s
  refine ⟨fun hn => ?_, fun hn => ?_⟩ <;> rw [hn] at hc hf
  · refine ⟨hc, hf, fun t ht => ?_, fun t ht => ?_⟩
    · obtain rfl := Host.Outcome.next.inj (hc.symm.trans ht)
      refine ⟨_, exec_f2c _, ?_⟩
      simp [hn, toCelsius_toFahrenheit]
    · obtain rfl := Host.Outcome.next.inj (hf.symm.trans ht)
      refine ⟨_, exec_c2f _, ?_⟩
      simp [hn, toFahrenheit_toCelsius]
  · exact ⟨hc, hf⟩

/-- Settles O20: the packed word is known bit by bit. -/
theorem packReplacesOneField : Obligations.PackReplacesOneField := by
  refine ⟨decode_encode .pack, fun s => ⟨fun h1 h2 => ?_, fun h => ?_⟩⟩
  · exact ⟨_, exec_pack_of_wf ⟨h1, h2⟩, packField_getLsbD s.port.a s.port.field s.port.n ⟨h1, h2⟩⟩
  · exact congrArg Host.Outcome.next (fieldCommand_of_not_wf (Request.not_field_wf h))

/-- Settles O22: the two round trips, and the bits of the packed word outside the field. -/
theorem packUnpackLaws : Obligations.PackUnpackLaws := by
  intro w f v h1 h2 hv
  refine ⟨unpackField_packField w ⟨h1, h2⟩ hv, fun j hj hout => ?_, packField_unpackField w ⟨h1, h2⟩⟩
  rw [packField_getLsbD w f v ⟨h1, h2⟩ j hj, if_neg (by omega)]

/-- Settles O14: DECT puts the temperature of A in RT, which is A's number of LSB over 128. -/
theorem dectDecodesTheRawWord : Obligations.DectDecodesTheRawWord := by
  refine ⟨decode_encode .dect, fun s => ⟨fun h => ?_, fun h => ?_⟩⟩
  · rw [exec_dect, decodeTemp, decodeLsb_of_lt h, Int.cast_natCast]
  · rw [exec_dect, decodeTemp, decodeLsb_of_le h, neg_sub]
    push_cast
    rfl

/-- Settles O21: UNPACK puts the unpacked field in RN, or refuses the field. -/
theorem unpackExtractsOneField : Obligations.UnpackExtractsOneField := by
  refine ⟨decode_encode .unpack, fun s => ⟨fun h1 h2 => ?_, fun h => ?_⟩⟩
  · exact exec_unpack_of_wf ⟨h1, h2⟩
  · exact congrArg Host.Outcome.next (fieldCommand_of_not_wf (Request.not_field_wf h))

end

section
/-! PROOF. Register-port commands (41_register_port): a command that reads and a command that writes, each in closed form for
either answer of the port, and a threshold setter for either outcome of its encode. -/

namespace Sys2Proof.Machine

variable {s : State} {i : Instr} {r : RegAddr} {w : Word}

theorem readCommand_of_none (h : s.portRead r = none) (k : Word → State → State) :
    readCommand i r k s = s.faulted 4 (encode i) (some r.code) [] 1 :=
  (memRead_of_none h i _).trans (portFault_eq s i .portReadFault r)

/-- A command that reads one register and puts a temperature it makes of the word into RT. -/
theorem readCommand_setRT_of_some (h : s.portRead r = some w) (f : Word → Temp) :
    readCommand i r (fun w => State.setRT (f w)) s =
      { s.completed [.rd r w] with rt := { value := f w, valid := true } } :=
  memRead_of_some h i _

theorem writeCommand_of_ack (h : s.portAck r w = true) : writeCommand i r w s = s.completed [.wr r w] := by
  rcases writeCommand_cases s i r w with ⟨-, e⟩ | ⟨hn, -⟩
  · exact e.trans (logged_done_eq s _)
  · simp [h] at hn

theorem writeCommand_of_not_ack (h : s.portAck r w = false) :
    writeCommand i r w s = s.faulted 5 (encode i) (some r.code) [] 1 := by
  rcases writeCommand_cases s i r w with ⟨ha, -⟩ | ⟨-, e⟩
  · simp [h] at ha
  · exact e.trans (portFault_eq s i .portWriteFault r)

theorem thresholdCommand_of_some {t : Temp} (h : encodeTemp t = some w) :
    thresholdCommand i r t s = writeCommand i r w s := by
  simp [thresholdCommand, h]

theorem thresholdCommand_of_none {t : Temp} (h : encodeTemp t = none) :
    thresholdCommand i r t s = s.faulted 3 (encode i) none [] 0 := by
  rw [thresholdCommand, h]
  exact commandFault_eq s i .encodeRange

end Sys2Proof.Machine

open Sys2Proof Sys2Proof.Machine

/-- Settles O26: the encode decides between EncodeRange with no transaction and one write, which the port answers. -/
theorem thresholdWritesEncodeFirst : Obligations.ThresholdWritesEncodeFirst := by
  intro i r cmd reg h
  obtain ⟨rfl, rfl, he⟩ : cmd = encode i ∧ reg = r.code ∧
      ∀ s, exec i s = .next (thresholdCommand i r s.port.t s) := by
    simp only [List.mem_cons, Prod.mk.injEq, List.not_mem_nil, or_false] at h
    rcases h with ⟨rfl, rfl, rfl, rfl⟩ | ⟨rfl, rfl, rfl, rfl⟩ <;> exact ⟨rfl, rfl, fun _ => rfl⟩
  refine ⟨decode_encode i, fun s q hq => ?_⟩
  have htrunc : truncLsb s.port.t = q := truncLsb_eq_of_truncates hq
  rw [he]
  refine ⟨fun hout => ?_, fun h1 h2 hack => ?_, fun h1 h2 hack => ?_⟩
  · rw [thresholdCommand_of_none (encodeTemp_eq_none htrunc hout)]
  · rw [thresholdCommand_of_some (encodeTemp_eq_some htrunc h1 h2), writeCommand_of_ack hack]
  · rw [thresholdCommand_of_some (encodeTemp_eq_some htrunc h1 h2), writeCommand_of_not_ack hack]

/-- Settles O23: each form is the read of its register into RW. -/
theorem rdregReadsARegister : Obligations.RdregReadsARegister := by
  intro i r cmd reg h
  obtain ⟨rfl, rfl, hi, hp, he⟩ : cmd = encode i ∧ reg = r.code ∧
      i ∈ [.rdregTval, .rdregCfg, .rdregTlow, .rdregThigh] ∧ (portPattern i).head? = some (false, r) ∧
      ∀ s, exec i s = .next (readCommand i r State.setRW s) := by
    simp only [List.mem_cons, Prod.mk.injEq, List.not_mem_nil, or_false] at h
    rcases h with ⟨rfl, rfl, rfl, rfl⟩ | ⟨rfl, rfl, rfl, rfl⟩ | ⟨rfl, rfl, rfl, rfl⟩ | ⟨rfl, rfl, rfl, rfl⟩ <;>
      exact ⟨rfl, rfl, by decide, rfl, fun _ => rfl⟩
  refine ⟨decode_encode i, fun s => ⟨fun w hw => exec_rdreg_of_portRead hi hp hw, fun hnone => ?_⟩⟩
  rw [he, readCommand_of_none hnone]

/-- Settles O24: each form is the write of A to its register. -/
theorem wrregWritesARegister : Obligations.WrregWritesARegister := by
  intro i r cmd reg h
  obtain ⟨rfl, rfl, he⟩ : cmd = encode i ∧ reg = r.code ∧ ∀ s, exec i s = .next (writeCommand i r s.port.a s) := by
    simp only [List.mem_cons, Prod.mk.injEq, List.not_mem_nil, or_false] at h
    rcases h with ⟨rfl, rfl, rfl, rfl⟩ | ⟨rfl, rfl, rfl, rfl⟩ | ⟨rfl, rfl, rfl, rfl⟩ <;> exact ⟨rfl, rfl, fun _ => rfl⟩
  refine ⟨decode_encode i, fun s => ⟨fun hack => ?_, fun hack => ?_⟩⟩
  · rw [he, writeCommand_of_ack hack]
  · rw [he, writeCommand_of_not_ack hack]

/-- Settles O25: each form is the read of its register into RT, decoded and, for Fahrenheit, converted. -/
theorem temperatureAndThresholdReads : Obligations.TemperatureAndThresholdReads := by
  intro i r fahrenheit cmd reg h
  obtain ⟨rfl, rfl, he⟩ : cmd = encode i ∧ reg = r.code ∧ ∀ s, exec i s = .next (readCommand i r (fun w => State.setRT
      (if fahrenheit then s.params.numerics.toFahrenheit (decodeTemp w) else decodeTemp w)) s) := by
    simp only [List.mem_cons, Prod.mk.injEq, List.not_mem_nil, or_false] at h
    rcases h with ⟨rfl, rfl, rfl, rfl, rfl⟩ | ⟨rfl, rfl, rfl, rfl, rfl⟩ | ⟨rfl, rfl, rfl, rfl, rfl⟩ |
      ⟨rfl, rfl, rfl, rfl, rfl⟩ | ⟨rfl, rfl, rfl, rfl, rfl⟩ | ⟨rfl, rfl, rfl, rfl, rfl⟩ <;>
      exact ⟨rfl, rfl, fun _ => rfl⟩
  refine ⟨decode_encode i, fun s => ⟨fun w hw => ?_, fun hnone => ?_⟩⟩
  · rw [he, readCommand_setRT_of_some hw]
  · rw [he, readCommand_of_none hnone]

end

section
/-! PROOF. Configuration-field commands (42_config_fields): a getter is a read of CFG and its field; a setter and TRIGSS are
read-modify-writes whose word is known bit by bit; under the store oracle a field set is read back, and APPLYDEF leaves the
preset. -/

namespace Sys2Proof

/-! ## The fields of the configuration word -/

/-- A two-bit field read as a number is its two bits (40_codec R105). -/
theorem unpackField_twoBits (w : Word) {f : Field} (hw : f.wid = 2) :
    unpackField w f = 2 * (w.getLsbD (f.off + 1)).toNat + (w.getLsbD f.off).toNat := by
  have hlt := unpackField_lt w f
  have h0 := unpackField_testBit w f 0
  have h1 := unpackField_testBit w f 1
  simp only [hw, Nat.add_zero, Nat.zero_lt_two, Nat.one_lt_two, decide_true, Bool.true_and] at hlt h0 h1
  rw [← h0, ← h1, Nat.toNat_testBit, Nat.toNat_testBit]
  omega

/-- The cycle time of each two-bit code (42_config_fields R171). -/
theorem cycleTimeMs_twoBits (hi lo : Bool) : cycleTimeMs (2 * hi.toNat + lo.toNat) =
    if hi then (if lo then 125 else 250) else (if lo then 1000 else 4000) := by
  cases hi <;> cases lo <;> rfl

/-- The codes above 3 stand for no cycle time (42_config_fields R171). -/
theorem cycleTimeMs_of_le {c : Nat} (h : 4 ≤ c) : cycleTimeMs c = 0 := by
  obtain ⟨d, rfl⟩ := Nat.exists_eq_add_of_le' h
  rfl

/-- Writing one field of the configuration word leaves what another reads (10_state R30). -/
theorem unpackField_packField_of_ne (w : Word) {f g : ConfigField} (h : f ≠ g) (v : Int) :
    unpackField (packField w f.field v) g.field = unpackField w g.field := by
  have hdisjoint := f.field_disjoint g h
  have hg := g.field_wf.2
  refine Nat.eq_of_testBit_eq fun j => ?_
  rw [unpackField_testBit, unpackField_testBit]
  by_cases hj : j < g.field.wid
  · rw [packField_getLsbD w f.field v f.field_wf _ (by omega), if_neg (by omega)]
  · simp [hj]

theorem unpackBool_packField_of_ne (w : Word) {f g : ConfigField} (h : f ≠ g) (v : Int) :
    unpackBool (packField w f.field v) g = unpackBool w g := by
  rw [unpackBool, unpackField_packField_of_ne w h, unpackBool]

/-- A Boolean stored in a single-bit field is read back (42_config_fields R197). -/
theorem unpackBool_packField (w : Word) {f : ConfigField} (hf : f.field.wid = 1) (b : Bool) :
    unpackBool (packField w f.field (storedBool b)) f = b := by
  rw [unpackBool_eq _ f hf, Machine.packField_storedBool_getLsbD w f.field_wf hf b (by have := f.field_wf; omega), if_pos rfl]
  rfl

/-- The code of a cycle time, stored and read, gives the cycle time back (42_config_fields R197). -/
theorem exists_cycleTimeCode {n : Int} (h : n ∈ [4000, 1000, 250, 125]) :
    ∃ c : Nat, cycleTimeCode n = some (c : Int) ∧ c < 4 ∧ cycleTimeMs c = n.toNat := by
  simp only [List.mem_cons, List.not_mem_nil, or_false] at h
  rcases h with rfl | rfl | rfl | rfl
  · exact ⟨0, by decide⟩
  · exact ⟨1, by decide⟩
  · exact ⟨2, by decide⟩
  · exact ⟨3, by decide⟩

/-- The code of a fault count, stored and read, gives the count back (42_config_fields R197). -/
theorem exists_faultCountCode {n : Int} (h1 : 1 ≤ n) (h2 : n ≤ 4) :
    ∃ c : Nat, faultCountCode n = some (c : Int) ∧ c < 4 ∧ faultCount c = n.toNat := by
  refine ⟨(n - 1).toNat, ?_, by omega, ?_⟩
  · rw [faultCountCode, if_neg (by omega), Int.toNat_of_nonneg (by omega)]
  · unfold faultCount
    omega

/-- SETF.CR discards every N that is no cycle time (42_config_fields R191). -/
theorem cycleTimeCode_eq_none {n : Int} (h : n ∉ [4000, 1000, 250, 125]) : cycleTimeCode n = none := by
  simp only [List.mem_cons, List.not_mem_nil, or_false, not_or] at h
  obtain ⟨h0, h1, h2, h3⟩ := h
  rw [cycleTimeCode, if_neg h0, if_neg h1, if_neg h2, if_neg h3]

/-- SETF.CF discards every count outside 1 to 4 (42_config_fields R192). -/
theorem faultCountCode_eq_none {n : Int} (h : n < 1 ∨ 4 < n) : faultCountCode n = none := if_pos h

/-- Writing SS as 1 sets bit 15, whatever it was (42_config_fields R199). -/
theorem packField_ss_one (w : Word) : packField w ConfigField.ss.field 1 = w ||| 0x8000#16 := by
  refine BitVec.eq_of_getLsbD_eq fun j hj => ?_
  have hmask : ∀ j < 16, (0x8000#16).getLsbD j = decide (j = 15) := by decide
  rw [BitVec.getLsbD_or, hmask j hj]
  refine (Machine.packField_storedBool_getLsbD w ConfigField.ss.field_wf rfl true hj).trans ?_
  by_cases h : j = 15 <;> simp [h]

/-! ## The register image -/

/-- Events that write other registers leave a register's word (20_memory R58). -/
theorem storeWord_append_of_notMem (m0 : Image) (h es : List Event) (r : RegAddr) (hes : ∀ w, Event.wr r w ∉ es) :
    storeWord m0 (h ++ es) r = storeWord m0 h r := by
  induction es generalizing h with
  | nil => rw [List.append_nil]
  | cons e es ih =>
    rw [List.append_cons, ih _ fun w hw => hes w (.tail _ hw)]
    cases e with
    | rd q x => exact storeWord_append_rd m0 h r q x
    | wr q x =>
      have hq : q ≠ r := by rintro rfl; exact hes x (.head _)
      rw [storeWord_append_wr, if_neg hq]

end Sys2Proof

namespace Sys2Proof.Machine

section

variable {s t u : State} {i : Instr} {f : ConfigField} {v : Int} {w : Word} {m0 : Image}

/-! ## Getters -/

theorem readCommand_setRB_of_some {r : RegAddr} (h : s.portRead r = some w) (g : Word → Bool) :
    readCommand i r (fun w => State.setRB (g w)) s =
      { s.completed [.rd r w] with rb := { value := g w, valid := true } } :=
  memRead_of_some h i _

theorem readCommand_setRN_of_some {r : RegAddr} (h : s.portRead r = some w) (g : Word → Nat) :
    readCommand i r (fun w => State.setRN (g w)) s =
      { s.completed [.rd r w] with rn := { value := g w, valid := true } } :=
  memRead_of_some h i _

/-- The getters of a Boolean, each with its field (42_config_fields R170, R172 to R174, R176). -/
def boolGetters : List (Instr × ConfigField) :=
  [(.getfAl, .al), (.getfSm, .sm), (.getfIm, .im), (.getfPol, .pol), (.getfSs, .ss)]

theorem exec_of_boolGetters (h : (i, f) ∈ boolGetters) (s : State) :
    exec i s = .next (readCommand i .cfg (fun w => State.setRB (unpackBool w f)) s) := by
  simp only [boolGetters, List.mem_cons, Prod.mk.injEq, List.not_mem_nil, or_false] at h
  rcases h with ⟨rfl, rfl⟩ | ⟨rfl, rfl⟩ | ⟨rfl, rfl⟩ | ⟨rfl, rfl⟩ | ⟨rfl, rfl⟩ <;> rfl

theorem wid_eq_one_of_boolGetters (h : (i, f) ∈ boolGetters) : f.field.wid = 1 := by
  revert h; cases f <;> simp [boolGetters]

theorem exec_boolGetter_of_some (h : (i, f) ∈ boolGetters) (hr : s.portRead .cfg = some w) :
    exec i s = .next { s.completed [.rd .cfg w] with rb := { value := unpackBool w f, valid := true } } := by
  rw [exec_of_boolGetters h, readCommand_setRB_of_some hr]

theorem exec_getfCr_of_some (hr : s.portRead .cfg = some w) : exec .getfCr s = .next { s.completed [.rd .cfg w] with
    rn := { value := cycleTimeMs (unpackField w ConfigField.cr.field), valid := true } } :=
  congrArg Host.Outcome.next (readCommand_setRN_of_some hr _)

theorem exec_getfCf_of_some (hr : s.portRead .cfg = some w) : exec .getfCf s = .next { s.completed [.rd .cfg w] with
    rn := { value := faultCount (unpackField w ConfigField.cf.field), valid := true } } :=
  congrArg Host.Outcome.next (readCommand_setRN_of_some hr _)

/-! ## Setters and TRIGSS -/

theorem exec_readModifyWrite_of_none (hm : readModifyWrite i s.port = some (f, v)) (hr : s.portRead .cfg = none) :
    exec i s = .next (s.faulted 4 (encode i) (some 1) [] 1) := by
  rw [exec_of_readModifyWrite hm, memRead_of_none hr, portFault_eq]
  rfl

theorem exec_of_write_taken (hm : readModifyWrite i s.port = some (f, v)) (hr : s.portRead .cfg = some w)
    (hw : writesAfter i w = true) (ha : (s.completed [.rd .cfg w]).portAck .cfg (packField w f.field v) = true) :
    exec i s = .next { s.completed [.rd .cfg w, .wr .cfg (packField w f.field v)] with cfgl := w } := by
  rw [exec_of_writesAfter hm hr hw]
  rcases writeBack_afterRead_cases s i w f v with ⟨-, e⟩ | ⟨hn, -⟩
  · rw [e]
  · simp [ha] at hn

theorem exec_of_write_refused (hm : readModifyWrite i s.port = some (f, v)) (hr : s.portRead .cfg = some w)
    (hw : writesAfter i w = true) (ha : (s.completed [.rd .cfg w]).portAck .cfg (packField w f.field v) = false) :
    exec i s = .next (s.faulted 5 (encode i) (some 1) [.rd .cfg w] 2) := by
  rw [exec_of_writesAfter hm hr hw]
  rcases writeBack_afterRead_cases s i w f v with ⟨hn, -⟩ | ⟨-, e⟩
  · simp [ha] at hn
  · rw [e]

/-- Where no write follows, the read is the whole command, and CFGL keeps the word read (log 3). -/
theorem exec_of_no_write (hm : readModifyWrite i s.port = some (f, v)) (hr : s.portRead .cfg = some w)
    (hw : writesAfter i w = false) : exec i s = .next { s.completed [.rd .cfg w] with cfgl := w } := by
  rw [exec_of_readModifyWrite hm, memRead_of_some hr, hw]
  rfl

theorem writesAfter_of_ne (hi : i ≠ .trigss) (w : Word) : writesAfter i w = true := by simp [writesAfter, hi]

/-- TRIGSS writes in sleep mode alone (42_config_fields R199). -/
theorem writesAfter_trigss (w : Word) : writesAfter .trigss w = w.getLsbD 8 := unpackBool_eq w .sm rfl

/-- A setter is the read-modify-write of its field, whose packed word has the bits `new` names (42_config_fields R190). -/
theorem readModifyWrites_of_setter {new : Nat → Option Bool} (hi : i ≠ .trigss)
    (hm : readModifyWrite i s.port = some (f, v))
    (hbits : ∀ (w : Word) (j : Nat), j < 16 → (packField w f.field v).getLsbD j = (new j).getD (w.getLsbD j)) :
    readModifyWrites i (encode i) new s :=
  ⟨exec_readModifyWrite_of_none hm, fun w hr => ⟨packField w f.field v, hbits w,
    exec_of_write_taken hm hr (writesAfter_of_ne hi w), exec_of_write_refused hm hr (writesAfter_of_ne hi w)⟩⟩

/-! ## The store oracle -/

/-- Under the store oracle a setter replaces its field in the image's word (20_memory R58, 42_config_fields R190). -/
theorem exec_setter_of_store (hi : i ≠ .trigss) (hm : readModifyWrite i s.port = some (f, v)) (hs : s.bank = .store m0)
    (hc : storeWord m0 s.history .cfg = w) :
    exec i s = .next { s.completed [.rd .cfg w, .wr .cfg (packField w f.field v)] with cfgl := w } :=
  exec_of_write_taken hm ((portRead_store s .cfg hs).trans (congrArg some hc)) (writesAfter_of_ne hi _)
    (portAck_store (s.completed _) .cfg _ (m0 := m0) (by simp [State.completed, hs]))

/-- After a setter, and with no write of CFG in between, CFG reads as a word with the field set (42_config_fields R197). -/
theorem portRead_after_setter {es : List Event} (hi : i ≠ .trigss) (hm : readModifyWrite i s.port = some (f, v))
    (hs : s.bank = .store m0) (h : exec i s = .next t) (hub : u.bank = t.bank) (huh : u.history = t.history ++ es)
    (hes : ∀ w, Event.wr .cfg w ∉ es) : ∃ w, u.portRead .cfg = some (packField w f.field v) := by
  have hu : u.bank = .store m0 := hub.trans ((result_of_exec h).bank_store hs)
  obtain rfl := Host.Outcome.next.inj ((exec_setter_of_store hi hm hs rfl).symm.trans h)
  refine ⟨storeWord m0 s.history .cfg, ?_⟩
  rw [portRead_store u .cfg hu, huh, storeWord_append_of_notMem m0 _ es .cfg hes]
  simp only [State.completed]
  rw [List.append_cons, storeWord_append_wr, if_pos rfl]

/-! ## Runs of commands under the store oracle -/

/-- A run of several steps and then more. -/
theorem core_run_add {k n : Nat} {s t : State} (h : core.run k s = .next t) : core.run (k + n) s = core.run n t := by
  induction k generalizing s with
  | zero =>
    cases h
    rw [Nat.zero_add]
  | succ k ih =>
    obtain ⟨u, hu, -⟩ := step_next s
    rw [core_run_of_step hu] at h
    rw [Nat.add_right_comm, core_run_of_step hu, ih h]

/-- In `k` steps from `s` the block completes `k` commands without a result, Done with the port events `es` in all, and is then
at `t`. -/
structure Completes (k : Nat) (es : List Event) (s t : State) : Prop where
  run : core.run k s = .next t
  pc : t.pc = s.pc + k
  history : t.history = s.history ++ es
  fault : t.fault = s.fault
  busy : t.busy = false
  noResult : t.validCount = 0

theorem Completes.trans {k n : Nat} {es es' : List Event} (h : Completes k es s t) (h' : Completes n es' t u) :
    Completes (k + n) (es ++ es') s u where
  run := (core_run_add h.run).trans h'.run
  pc := by rw [h'.pc, h.pc, Nat.add_assoc]
  history := by rw [h'.history, h.history, List.append_assoc]
  fault := h'.fault.trans h.fault
  busy := h'.busy
  noResult := h'.noResult

/-- The block accepts commands under the store oracle, with no move scheduled: `qs` is the command list from the index on, and
`w` the image's word of CFG. -/
structure Accepting (m0 : Image) (qs : List Request) (w : Word) (s : State) : Prop where
  bank : s.bank = .store m0
  moves : s.moves = []
  busy : s.busy = false
  fault : s.fault.set = false
  list : s.prog.drop s.pc = qs
  cfg : storeWord m0 s.history .cfg = w

variable {q : Request} {qs : List Request} {es : List Event} {c : Word}

theorem Accepting.prog_pc (h : Accepting m0 (q :: qs) w s) : s.prog[s.pc]? = some q := by
  rw [← List.head?_drop, h.list]
  rfl

/-- A command that is Done without a result is one step of such a run. -/
theorem Accepting.completes (h : Accepting m0 (q :: qs) w s) (hd : decode q.cmd = .ok i)
    (he : exec i (s.present q) = .next { (s.present q).completed es with cfgl := c }) :
    ∃ t, Completes 1 es s t ∧ Accepting m0 qs (storeWord m0 (s.history ++ es) .cfg) t := by
  have hstep : step s = .next { (s.present q).completed es with cfgl := c } := by
    rw [step_of_no_moves h.moves, issue_of_decode s h.busy h.fault h.prog_pc hd, he]
  refine ⟨_, ⟨(core_run_one s).trans hstep, rfl, rfl, rfl, rfl, rfl⟩,
    ⟨(result_of_exec he).bank_store h.bank, h.moves, rfl, h.fault, ?_, rfl⟩⟩
  exact (List.tail_drop ..).symm.trans (congrArg List.tail h.list)

/-- A setter's step. -/
theorem Accepting.setter (h : Accepting m0 (q :: qs) w s) (hd : decode q.cmd = .ok i) (hi : i ≠ .trigss)
    (hm : readModifyWrite i q = some (f, v)) :
    ∃ t, Completes 1 [.rd .cfg w, .wr .cfg (packField w f.field v)] s t ∧
      Accepting m0 qs (packField w f.field v) t := by
  obtain ⟨t, ht, ha⟩ := h.completes hd (exec_setter_of_store (s := s.present q) hi hm h.bank h.cfg)
  rw [List.append_cons, storeWord_append_wr, if_pos rfl] at ha
  exact ⟨t, ht, ha⟩

/-- A threshold setter's step. -/
theorem Accepting.threshold {r : RegAddr} {x : Word} (h : Accepting m0 (q :: qs) w s) (hd : decode q.cmd = .ok i)
    (he : exec i (s.present q) = .next (thresholdCommand i r q.t (s.present q))) (hx : encodeTemp q.t = some x)
    (hr : r ≠ .cfg) : ∃ t, Completes 1 [.wr r x] s t ∧ Accepting m0 qs w t := by
  rw [thresholdCommand_of_some hx, writeCommand_of_ack (portAck_store (s.present q) r x h.bank)] at he
  obtain ⟨t, ht, ha⟩ := h.completes hd (c := s.cfgl) he
  rw [storeWord_append_wr, if_neg hr, h.cfg] at ha
  exact ⟨t, ht, ha⟩

/-! ## The preset -/

/-- The configuration word APPLYDEF leaves, its five settings one after the other: code 2 stands for 250 ms, code 0 for one fault
(42_config_fields R200, R201). -/
def presetCfg (p : Params) (w : Word) : Word :=
  packField (packField (packField (packField (packField w
    ConfigField.sm.field (storedBool false)) ConfigField.cr.field (2 : Nat))
    ConfigField.im.field (storedBool p.imComparator)) ConfigField.pol.field (storedBool p.polActiveLow))
    ConfigField.cf.field (0 : Nat)


/-- The preset's bits, and those it keeps (42_config_fields R201). -/
theorem presetCfg_eq (p : Params) (w : Word) : presetCfg p w = (w &&& 0xE03F#16) ||| 0x0080#16 |||
    (if p.imComparator then 0x0200#16 else 0) ||| (if p.polActiveLow then 0x0400#16 else 0) := by
  unfold presetCfg
  cases p.imComparator <;> cases p.polActiveLow <;>
    simp [packField, fieldMask, storedBool, BitVec.and_or_distrib_right, BitVec.and_assoc, BitVec.or_assoc]

theorem unpackBool_presetCfg_sm (p : Params) (w : Word) : unpackBool (presetCfg p w) .sm = false := by
  simp (disch := decide) only [presetCfg, unpackBool_packField_of_ne, unpackBool_packField]

theorem unpackBool_presetCfg_im (p : Params) (w : Word) : unpackBool (presetCfg p w) .im = p.imComparator := by
  simp (disch := decide) only [presetCfg, unpackBool_packField_of_ne, unpackBool_packField]

theorem unpackBool_presetCfg_pol (p : Params) (w : Word) : unpackBool (presetCfg p w) .pol = p.polActiveLow := by
  simp (disch := decide) only [presetCfg, unpackBool_packField_of_ne, unpackBool_packField]

theorem unpackField_presetCfg_cr (p : Params) (w : Word) : unpackField (presetCfg p w) ConfigField.cr.field = 2 := by
  simp (disch := decide) only [presetCfg, unpackField_packField_of_ne, unpackField_packField]

theorem unpackField_presetCfg_cf (p : Params) (w : Word) : unpackField (presetCfg p w) ConfigField.cf.field = 0 := by
  simp (disch := decide) only [presetCfg, unpackField_packField]

/-- The two thresholds of the preset as register words (42_config_fields R201). -/
theorem decodeTemp_presetLow : decodeTemp 0x2580#16 = 75 := by
  exact_mod_cast decodeTemp_eq_div_iff.mpr (by decide : decodeLsb 0x2580#16 = 9600)

theorem decodeTemp_presetHigh : decodeTemp 0x2800#16 = 80 := by
  exact_mod_cast decodeTemp_eq_div_iff.mpr (by decide : decodeLsb 0x2800#16 = 10240)

/-- The preset's seven requests are seven steps, with the events of 42_config_fields R200. -/
theorem Accepting.preset {p : Params} (a0 : Accepting m0 (applyDef p ++ qs) w s) : ∃ t c1 c2 c3 c4 c5,
    Completes 7 [.rd .cfg w, .wr .cfg c1, .rd .cfg c1, .wr .cfg c2, .rd .cfg c2, .wr .cfg c3, .rd .cfg c3, .wr .cfg c4,
      .rd .cfg c4, .wr .cfg c5, .wr .tlow 0x2580#16, .wr .thigh 0x2800#16] s t ∧
    Accepting m0 qs (presetCfg p w) t ∧ storeWord m0 t.history .tlow = 0x2580#16 ∧
    storeWord m0 t.history .thigh = 0x2800#16 := by
  have hlow : encodeTemp 75 = some 0x2580#16 := decodeTemp_presetLow ▸ encodeTemp_decodeTemp_of_lt (by decide)
  have hhigh : encodeTemp 80 = some 0x2800#16 := decodeTemp_presetHigh ▸ encodeTemp_decodeTemp_of_lt (by decide)
  obtain ⟨t1, r1, a1⟩ := a0.setter (decode_encode .setfSm) (by decide) rfl
  obtain ⟨t2, r2, a2⟩ := a1.setter (decode_encode .setfCr) (by decide) rfl
  obtain ⟨t3, r3, a3⟩ := a2.setter (decode_encode .setfIm) (by decide) rfl
  obtain ⟨t4, r4, a4⟩ := a3.setter (decode_encode .setfPol) (by decide) rfl
  obtain ⟨t5, r5, a5⟩ := a4.setter (decode_encode .setfCf) (by decide) rfl
  obtain ⟨t6, r6, a6⟩ := a5.threshold (decode_encode .setthLow) rfl hlow (by decide)
  obtain ⟨t7, r7, a7⟩ := a6.threshold (decode_encode .setthHigh) rfl hhigh (by decide)
  refine ⟨t7, _, _, _, _, _, (((((r1.trans r2).trans r3).trans r4).trans r5).trans r6).trans r7, a7, ?_, ?_⟩
  · rw [r7.history, storeWord_append_wr, if_neg (by decide), r6.history, storeWord_append_wr, if_pos rfl]
  · rw [r7.history, storeWord_append_wr, if_pos rfl]

end

end Sys2Proof.Machine

open Sys2Proof Sys2Proof.Machine

/-- Settles O30: RN takes the cycle time of the two-bit code. -/
theorem getfCrReadsMilliseconds : Obligations.GetfCrReadsMilliseconds := by
  refine ⟨decode_encode .getfCr, fun c hc => cycleTimeMs_of_le hc, fun s => ⟨fun w hr => ?_, fun hr => ?_⟩⟩
  · rw [exec_getfCr_of_some hr, unpackField_twoBits w rfl, cycleTimeMs_twoBits]
    rfl
  · exact congrArg Host.Outcome.next (readCommand_of_none hr _)

/-- Settles O31: RN takes the two-bit code plus 1. -/
theorem getfCfReadsTheCount : Obligations.GetfCfReadsTheCount := by
  refine ⟨decode_encode .getfCf, fun s => ⟨fun w hr => ?_, fun hr => ?_⟩⟩
  · rw [exec_getfCf_of_some hr, unpackField_twoBits w rfl]
    rfl
  · exact congrArg Host.Outcome.next (readCommand_of_none hr _)

/-- Settles O32: each is the read-modify-write of a single-bit field with the value of B. -/
theorem setfWritesOneBit : Obligations.SetfWritesOneBit := by
  intro i bit cmd h
  obtain ⟨f, rfl, rfl, hwid, hi, hm⟩ : ∃ f : ConfigField, bit = f.field.off ∧ cmd = encode i ∧ f.field.wid = 1 ∧
      i ≠ .trigss ∧ ∀ q, readModifyWrite i q = some (f, storedBool q.b) := by
    simp only [List.mem_cons, Prod.mk.injEq, List.not_mem_nil, or_false] at h
    rcases h with ⟨rfl, rfl, rfl⟩ | ⟨rfl, rfl, rfl⟩ | ⟨rfl, rfl, rfl⟩ | ⟨rfl, rfl, rfl⟩
    · exact ⟨.sm, rfl, rfl, rfl, by decide, fun _ => rfl⟩
    · exact ⟨.im, rfl, rfl, rfl, by decide, fun _ => rfl⟩
    · exact ⟨.pol, rfl, rfl, rfl, by decide, fun _ => rfl⟩
    · exact ⟨.ss, rfl, rfl, rfl, by decide, fun _ => rfl⟩
  exact ⟨decode_encode i, fun s => readModifyWrites_of_setter hi (hm s.port) fun w _ hj =>
    packField_storedBool_getLsbD w f.field_wf hwid s.port.b hj⟩

/-- Settles O33: a cycle time has a two-bit code, and any other N has none. -/
theorem setfCrStoresTheCodeOrDiscards : Obligations.SetfCrStoresTheCodeOrDiscards := by
  refine ⟨decode_encode .setfCr, fun s => ⟨fun hn => ?_, fun n hi lo hmem hn => ?_⟩⟩
  · exact exec_of_discarded rfl (Option.map_eq_none_iff.mpr (cycleTimeCode_eq_none hn))
  · have hm : readModifyWrite .setfCr s.port = some (.cr, 2 * storedBool hi + storedBool lo) := by
      rw [readModifyWrite, hn, cycleTimeCode_of_mem hmem]
      rfl
    exact readModifyWrites_of_setter (by decide) hm fun w _ hj =>
      packField_twoBits_getLsbD w ConfigField.cr.field_wf rfl hi lo hj

/-- Settles O34: a count from 1 to 4 has a two-bit code, and any other N has none. -/
theorem setfCfStoresTheCountOrDiscards : Obligations.SetfCfStoresTheCountOrDiscards := by
  refine ⟨decode_encode .setfCf, fun s => ⟨fun hn => ?_, fun n hi lo hmem hn => ?_⟩⟩
  · exact exec_of_discarded rfl (Option.map_eq_none_iff.mpr (faultCountCode_eq_none hn))
  · have hm : readModifyWrite .setfCf s.port = some (.cf, 2 * storedBool hi + storedBool lo) := by
      rw [readModifyWrite, hn, faultCountCode_of_mem hmem]
      rfl
    exact readModifyWrites_of_setter (by decide) hm fun w _ hj =>
      packField_twoBits_getLsbD w ConfigField.cf.field_wf rfl hi lo hj

/-- Settles O35: TRIGSS is the read-modify-write of SS with 1, which writes only where SM was 1. -/
theorem trigssWritesOnlyInSleepMode : Obligations.TrigssWritesOnlyInSleepMode := by
  refine ⟨decode_encode .trigss, fun s => ?_⟩
  have hm : readModifyWrite .trigss s.port = some (.ss, 1) := rfl
  refine ⟨fun hr => exec_readModifyWrite_of_none hm hr, fun w hr h8 => ?_, fun w hr h8 ha => ?_, fun w hr h8 ha => ?_⟩
  · exact exec_of_no_write hm hr ((writesAfter_trigss w).trans h8)
  · rw [← packField_ss_one] at ha ⊢
    exact exec_of_write_taken hm hr ((writesAfter_trigss w).trans h8) ha
  · rw [← packField_ss_one] at ha
    exact exec_of_write_refused hm hr ((writesAfter_trigss w).trans h8) ha

/-- Settles O37: the getter reads the word the setter wrote, and its field holds the code of what was given. -/
theorem setterIsReadBackUnderTheStoreOracle : Obligations.SetterIsReadBackUnderTheStoreOracle := by
  intro m0 s t u es hs hub huh hes
  refine ⟨fun set get h he => ?_, fun hn he => ?_, fun h1 h4 he => ?_⟩
  · obtain ⟨f, hget, hi, hm⟩ : ∃ f, (get, f) ∈ boolGetters ∧ set ≠ .trigss ∧
        readModifyWrite set s.port = some (f, storedBool s.port.b) := by
      simp only [List.mem_cons, Prod.mk.injEq, List.not_mem_nil, or_false] at h
      rcases h with ⟨rfl, rfl⟩ | ⟨rfl, rfl⟩ | ⟨rfl, rfl⟩ | ⟨rfl, rfl⟩
      · exact ⟨.sm, by decide, by decide, rfl⟩
      · exact ⟨.im, by decide, by decide, rfl⟩
      · exact ⟨.pol, by decide, by decide, rfl⟩
      · exact ⟨.ss, by decide, by decide, rfl⟩
    obtain ⟨w, hr⟩ := portRead_after_setter hi hm hs he hub huh hes
    refine ⟨_, exec_boolGetter_of_some hget hr, ?_⟩
    rw [unpackBool_packField w (wid_eq_one_of_boolGetters hget)]
  · obtain ⟨c, hc, hlt, hms⟩ := exists_cycleTimeCode hn
    have hm : readModifyWrite .setfCr s.port = some (.cr, (c : Int)) := by rw [readModifyWrite, hc]; rfl
    obtain ⟨w, hr⟩ := portRead_after_setter (by decide) hm hs he hub huh hes
    refine ⟨_, exec_getfCr_of_some hr, ?_⟩
    rw [unpackField_packField w ConfigField.cr.field_wf hlt, hms]
  · obtain ⟨c, hc, hlt, hcount⟩ := exists_faultCountCode h1 h4
    have hm : readModifyWrite .setfCf s.port = some (.cf, (c : Int)) := by rw [readModifyWrite, hc]; rfl
    obtain ⟨w, hr⟩ := portRead_after_setter (by decide) hm hs he hub huh hes
    refine ⟨_, exec_getfCf_of_some hr, ?_⟩
    rw [unpackField_packField w ConfigField.cf.field_wf hlt, hcount]

/-- Settles O53: the preset is a run of seven setters, and the getters read the words it leaves. -/
theorem presetUnderTheStoreOracle : Obligations.PresetUnderTheStoreOracle := by
  intro m0 s before after hs hm hb hf hprog hpc
  have hlist : s.prog.drop s.pc = applyDef s.params ++ after := by
    rw [hprog, hpc, List.append_assoc, List.drop_left]
  obtain ⟨t, c1, c2, c3, c4, c5, run, ht, htlow, hthigh⟩ := Accepting.preset ⟨hs, hm, hb, hf, hlist, rfl⟩
  have hread {r : RegAddr} {w : Word} (h : storeWord m0 t.history r = w) : t.portRead r = some w :=
    (portRead_store t r ht.bank).trans (congrArg some h)
  have hcfg := hread ht.cfg
  refine ⟨t, c1, c2, c3, c4, c5, _, run.run, rfl, run.pc, run.fault, run.busy, run.noResult, run.history,
    ht.cfg.trans (presetCfg_eq _ _), htlow, hthigh,
    ⟨_, exec_boolGetter_of_some (f := .sm) (by decide) hcfg, ?_⟩, ⟨_, exec_getfCr_of_some hcfg, ?_⟩,
    ⟨_, exec_boolGetter_of_some (f := .im) (by decide) hcfg, ?_⟩,
    ⟨_, exec_boolGetter_of_some (f := .pol) (by decide) hcfg, ?_⟩, ⟨_, exec_getfCf_of_some hcfg, ?_⟩,
    ⟨_, congrArg Host.Outcome.next (readCommand_setRT_of_some (hread htlow) decodeTemp), ?_⟩,
    ⟨_, congrArg Host.Outcome.next (readCommand_setRT_of_some (hread hthigh) decodeTemp), ?_⟩⟩
  · rw [unpackBool_presetCfg_sm]
  · rw [unpackField_presetCfg_cr]
    rfl
  · rw [unpackBool_presetCfg_im]
  · rw [unpackBool_presetCfg_pol]
  · rw [unpackField_presetCfg_cf]
    rfl
  · rw [decodeTemp_presetLow]
  · rw [decodeTemp_presetHigh]

/-- Settles O29: RB takes the one bit of the field. -/
theorem getfReadsOneBit : Obligations.GetfReadsOneBit := by
  intro i bit cmd h
  obtain ⟨f, rfl, rfl, hget⟩ : ∃ f : ConfigField, bit = f.field.off ∧ cmd = encode i ∧ (i, f) ∈ boolGetters := by
    simp only [List.mem_cons, Prod.mk.injEq, List.not_mem_nil, or_false] at h
    rcases h with ⟨rfl, rfl, rfl⟩ | ⟨rfl, rfl, rfl⟩ | ⟨rfl, rfl, rfl⟩ | ⟨rfl, rfl, rfl⟩ | ⟨rfl, rfl, rfl⟩
    · exact ⟨.al, rfl, rfl, by decide⟩
    · exact ⟨.sm, rfl, rfl, by decide⟩
    · exact ⟨.im, rfl, rfl, by decide⟩
    · exact ⟨.pol, rfl, rfl, by decide⟩
    · exact ⟨.ss, rfl, rfl, by decide⟩
  refine ⟨decode_encode i, fun s => ⟨fun w hr => ?_, fun hr => ?_⟩⟩
  · rw [exec_boolGetter_of_some hget hr, unpackBool_eq w f (wid_eq_one_of_boolGetters hget)]
  · rw [exec_of_boolGetters hget, readCommand_of_none hr]
    rfl

end

section
/-! PROOF. Faults (60_exceptions): a block with FAULT set does nothing of its own, so that FAULT keeps the first fault until a
reset; a host read of a valid latch, and of an invalid one. -/

namespace Sys2Proof.Machine

variable {s t : State}

/-! ## A faulted block -/

/-- A faulted block ignores a turn (60_exceptions R227). -/
theorem issue_of_fault (hf : s.fault.set = true) : issue s = .next s := if_pos hf

theorem Turn.eq_of_fault (h : Turn s t) (hf : s.fault.set = true) : t = s := by
  cases h with
  | waits => rfl
  | runs _ _ _ hc | illegal _ _ hc | writes _ _ _ _ hc => simp [hf] at hc

theorem Part.eq_of_fault (h : Part s t) (hf : s.fault.set = true) : t = s := by
  cases h with
  | turn _ ht => exact ht.eq_of_fault hf
  | accepts _ _ hc | reads _ _ hc => simp [hf] at hc

theorem Served.fault_eq_or_reset {x : Move} (h : Served s x t) (hf : s.fault.set = true) : t.fault = s.fault ∨ x = .reset := by
  cases h with
  | reset => exact .inr rfl
  | read => exact .inl rfl
  | noRead => exact .inl (FaultReg.record_set _ _ _ hf)
  | turn _ ht => exact .inl (congrArg State.fault (ht.eq_of_fault hf))
  | part _ hp => exact .inl (congrArg State.fault (hp.eq_of_fault hf))

/-! ## A host read of an invalid latch -/

theorem latchValue_of_not_validBit {l : LatchId} (h : s.validBit l = false) : s.latchValue l = none := by
  cases l <;> rw [State.validBit] at h <;> simp [State.latchValue, Latch.read, h]

theorem serve_readLatch_of_none {l : LatchId} (h : s.latchValue l = none) : serve (.readLatch l) s =
    .next { s.takeFault .resultInvalid { code := l.code, reg := none } with hostData := none } := by
  simp only [serve, hostRead, h]

end Sys2Proof.Machine

open Sys2Proof Sys2Proof.Machine

/-- Settles O45: the block's own moves change nothing while FAULT is set, and a read's fault is not recorded. -/
theorem firstFaultStaysUntilReset : Obligations.FirstFaultStaysUntilReset := by
  refine ⟨fun s hf hm => (step_of_no_moves hm).trans (issue_of_fault hf), fun s t hf h => ?_⟩
  rcases step_cases h with ⟨-, ht⟩ | ⟨x, rest, hm, hx⟩
  · exact .inl (congrArg State.fault (ht.eq_of_fault hf))
  · rcases hx.fault_eq_or_reset hf with hfault | rfl
    · exact .inl hfault
    · exact .inr ⟨rest, hm⟩

/-- Settles O46: a valid latch reads as its value; an invalid one takes R224's entry with the latch's number. -/
theorem hostReadOfALatch : Obligations.HostReadOfALatch := by
  intro l code hc s rest hm
  have hcode : code = l.code := by
    simp only [List.mem_cons, Prod.mk.injEq, List.not_mem_nil, or_false] at hc
    rcases hc with ⟨rfl, rfl⟩ | ⟨rfl, rfl⟩ | ⟨rfl, rfl⟩ | ⟨rfl, rfl⟩ <;> rfl
  rw [step_of_moves hm]
  refine ⟨fun hv => ?_, fun hv => ?_⟩
  · obtain ⟨v, hread, hval⟩ := latchValue_of_validBit { s with moves := rest } (l := l) hv
    exact ⟨v, serve_readLatch _ hread, hval⟩
  · rw [serve_readLatch_of_none (latchValue_of_not_validBit (s := { s with moves := rest }) hv), hcode]
    rfl

end

section
/-! PROOF. Reset and hazards (70_reset): a reset restores the block between commands and inside one, where it keeps the port events
completed so far; the state at the start of a run; a final state waits. -/

namespace Sys2Proof.Machine

variable {s t : State} {i : Instr} {q : Request} {es : List Event}

/-! ## The schedule along a run -/

theorem Turn.moves_eq (h : Turn s t) : t.moves = s.moves := by
  cases h with
  | waits | illegal => rfl
  | runs q i _ _ _ _ he => exact (result_of_exec he).moves_eq
  | writes i before f v => rcases writeBack_cases s i before f v with ⟨-, e⟩ | ⟨-, e⟩ <;> rw [e] <;> rfl

theorem Part.moves_eq (h : Part s t) : t.moves = s.moves := by
  cases h with
  | turn _ ht => exact ht.moves_eq
  | accepts => rfl
  | reads i => rcases readHalf_cases s i with ⟨w, -, -, e⟩ | ⟨w, -, -, e⟩ | ⟨-, e⟩ <;> rw [e] <;> rfl

theorem Served.moves_eq {x : Move} (h : Served s x t) : t.moves = s.moves := by
  cases h with
  | reset | read | noRead => rfl
  | turn _ ht => exact ht.moves_eq
  | part _ hp => exact hp.moves_eq

/-- A step takes one move off the schedule (log 9). -/
theorem step_moves (h : step s = .next t) : t.moves = s.moves.tail := by
  rcases step_cases h with ⟨hm, ht⟩ | ⟨x, rest, hm, hx⟩
  · rw [ht.moves_eq, hm, List.tail_nil]
  · rw [hx.moves_eq, hm, List.tail_cons]

/-- A run takes a move off the schedule for each step, and keeps the parameters and the command list. -/
theorem core_run_moves_and_setup {k : Nat} (h : core.run k s = .next t) : t.moves = s.moves.drop k ∧ SameSetup s t := by
  induction k generalizing s with
  | zero =>
    cases h
    exact ⟨rfl, rfl, rfl⟩
  | succ k ih =>
    obtain ⟨u, hu, -⟩ := step_next s
    rw [core_run_of_step hu] at h
    obtain ⟨hm, hparams, hprog⟩ := ih h
    obtain ⟨hparams', hprog'⟩ := stepKeepsParametersAndCommandList s u hu
    rw [step_moves hu, List.drop_tail] at hm
    exact ⟨hm, hparams.trans hparams', hprog.trans hprog'⟩

/-! ## The events of a command taken in parts -/

/-- Only the read-modify-writes have two transactions (30_encoding R87). -/
theorem length_portPattern_le_one (h : portPattern i ≠ [(false, .cfg), (true, .cfg)]) : (portPattern i).length ≤ 1 := by
  cases i
  case setfCr | setfSm | setfIm | setfPol | setfCf | setfSs | trigss => exact absurd rfl h
  all_goals simp [portPattern]

theorem CommandEvents.take_two {r : RegAddr} (h : CommandEvents r es) : es.take 2 = es := by cases h <;> rfl

/-- A command with no read-modify-write to make completes one transaction at most. -/
theorem take_one_of_no_readModifyWrite (hm : readModifyWrite i s.port = none) (h : exec i s = .next t)
    (hes : t.history = s.history ++ es) : es.take 1 = es := by
  by_cases hp : portPattern i = [(false, .cfg), (true, .cfg)]
  · obtain rfl := Host.Outcome.next.inj ((exec_of_discarded hp hm).symm.trans h)
    obtain rfl := List.append_cancel_left hes
    rfl
  · obtain ⟨es', hes', hpre⟩ := (result_of_exec h).events
    obtain rfl := List.append_cancel_left (hes.symm.trans hes')
    have hlen := hpre.length_le
    rw [List.length_map] at hlen
    exact List.take_of_length_le (hlen.trans (length_portPattern_le_one hp))

/-- The read of a read-modify-write, on its own, completes the first of the command's events, where it has one (20_memory R64). -/
theorem readHalf_history {f : ConfigField} {v : Int} (hm : readModifyWrite i s.port = some (f, v))
    (h : exec i s = .next t) (hes : t.history = s.history ++ es) : (readHalf i s).history = s.history ++ es.take 1 := by
  rcases readHalf_cases s i with ⟨w, hr, hw, e⟩ | ⟨w, hr, hw, e⟩ | ⟨hr, e⟩
  · rw [exec_of_writesAfter hm hr hw] at h
    cases h
    rw [e]
    rcases writeBack_afterRead_cases s i w f v with ⟨-, e'⟩ | ⟨-, e'⟩ <;>
    · rw [e'] at hes
      obtain rfl := List.append_cancel_left hes
      rfl
  · rw [exec_eq_readHalf hm (by simp [hr, hw]), e] at h
    cases h
    obtain rfl := List.append_cancel_left hes
    rw [e]
    rfl
  · rw [exec_eq_readHalf hm (by simp [hr]), e] at h
    cases h
    obtain rfl : es = [] := List.self_eq_append_right.mp hes
    rw [e]
    exact hes

/-- The second part of a command completes the first of its port events, where it has one. -/
theorem advance_accept_history (hf : s.fault.set = false) (hd : decode q.cmd = .ok i)
    (h : exec i (s.present q) = .next t) (hes : t.history = s.history ++ es) :
    ∃ u, advance (s.accept q) = .next u ∧ u.history = s.history ++ es.take 1 := by
  cases hm : readModifyWrite i q with
  | none => exact ⟨t, (advance_accept_of_none hf hd hm).trans h, by rw [take_one_of_no_readModifyWrite hm h hes, hes]⟩
  | some p => exact ⟨_, advance_accept_of_some hf hd hm, readHalf_history hm h hes⟩

/-- No event of an idle block is a port transaction: it accepts the next request, or waits. -/
theorem advance_history_of_idle (hb : s.busy = false) (h : advance s = .next t) : t.history = s.history := by
  simp only [advance, hb, Bool.false_eq_true, if_false] at h
  split at h
  · cases h
    rfl
  · split at h <;> cases h <;> rfl

/-- A scheduled event of an idle block with a request to present is its acceptance (30_encoding R80). -/
theorem step_of_part_of_idle {ms : List Move} (hm : s.moves = .part :: ms) (hb : s.busy = false)
    (hf : s.fault.set = false) (hq : s.prog[s.pc]? = some q) :
    step s = .next (({ s with moves := ms } : State).accept q) :=
  (step_of_moves hm).trans (advance_of_idle (s := { s with moves := ms }) hb hf hq)

/-- After its acceptance and `k` events more, `k` at most 2, the block has completed the first `k` of the port events the command
completes when it is run to its outcome: one that has fewer is past its outcome by then, and at most the next is accepted. -/
theorem run_parts_history {k : Nat} {ms : List Move} (hk : k ≤ 2) (hm : s.moves = List.replicate (k + 1) .part ++ ms)
    (hb : s.busy = false) (hf : s.fault.set = false) (hq : s.prog[s.pc]? = some q) (hd : decode q.cmd = .ok i)
    (h : exec i (s.present q) = .next t) (hes : t.history = s.history ++ es) :
    ∃ u, core.run (k + 1) s = .next u ∧ u.history = s.history ++ es.take k := by
  have hexec (ms' : List Move) : exec i { s with moves := ms', port := q } = .next { t with moves := ms' } :=
    exec_moves (s := s.present q) ms' h
  match k, hk with
  | 0, _ => exact ⟨_, (core_run_one s).trans (step_of_part_of_idle hm hb hf hq), (List.append_nil _).symm⟩
  | 1, _ =>
    obtain ⟨u, hu, hist⟩ := advance_accept_history (s := { s with moves := ms }) hf hd (hexec ms) hes
    exact ⟨u, (core_run_of_step (step_of_part_of_idle hm hb hf hq)).trans ((core_run_one _).trans hu), hist⟩
  | 2, _ =>
    have htake : es.take 2 = es := by
      obtain ⟨r, es', hevents, hes', -⟩ := (result_of_exec h).commandEvents
      obtain rfl := List.append_cancel_left (hes.symm.trans hes')
      exact hevents.take_two
    obtain ⟨-, -, hparts⟩ := partsMakeUpTheCommand s q i .part ms (.inr rfl) hb hf hq hd
    rw [htake, ← hes]
    rcases hparts hm with hrun | ⟨-, -, -, -, -, -, -, -, -, -, hrun⟩
    · obtain ⟨u, hu, -⟩ := advance_part { t with moves := ms }
      have hsecond := hrun.trans (hexec (.part :: ms))
      have hthird : step { t with moves := .part :: ms } = .next u := hu
      exact ⟨u, (core_run_add (n := 1) hsecond).trans ((core_run_one _).trans hthird),
        advance_history_of_idle (s := { t with moves := ms }) (result_of_exec h).busy_eq_false hu⟩
    · exact ⟨_, hrun.trans (hexec ms), rfl⟩

/-- A command that reads and then writes has written nothing after one event (42_config_fields R190). -/
theorem wr_notMem_take {k : Nat} (hes : es.map eventKind <+: [(false, .cfg), (true, .cfg)]) (hk : k ≤ 1) (r : RegAddr)
    (w : Word) : Event.wr r w ∉ es.take k := by
  intro hw
  have hfirst : (es.take 1).map eventKind <+: [(false, .cfg)] := by
    rw [List.map_take]
    exact hes.take 1
  have hmem := List.mem_map_of_mem (f := eventKind) (List.take_subset_take_left es hk hw)
  simpa [eventKind] using hfirst.subset hmem

end Sys2Proof.Machine

open Sys2Proof Sys2Proof.Machine

/-- Settles O49: a reset is a move of its own, served at once from every state. -/
theorem resetInputRestoresTheBlock : Obligations.ResetInputRestoresTheBlock := fun _ _ hm =>
  ⟨_, step_of_moves hm, rfl, rfl, rfl, rfl, rfl, rfl, rfl, rfl, rfl, rfl, rfl⟩

/-- Settles O50: the parts before the reset complete the first `k` events, and the reset keeps them and restores the block. -/
theorem resetDuringACommandAbandonsIt : Obligations.ResetDuringACommandAbandonsIt := by
  intro s t q i k rest hk hm hb hf hq hd h
  have hexec : exec i (s.present q) = .next { t with moves := s.moves } :=
    exec_moves (s := { s with moves := rest, port := q }) s.moves h
  obtain ⟨es, hes, hp⟩ := (result_of_exec h).events
  obtain ⟨v, hv, hist⟩ := run_parts_history hk hm hb hf hq hd hexec hes
  obtain ⟨hmoves, hparams, hprog⟩ := core_run_moves_and_setup hv
  rw [hm, List.drop_left' List.length_replicate] at hmoves
  obtain ⟨u, hu, hbusy, hhalf, hfault, hvalid, hpc, hrest, hparams', -, hhist, hprog', -⟩ :=
    resetInputRestoresTheBlock v rest hmoves
  refine ⟨u, es, (core_run_add hv).trans ((core_run_one v).trans hu), hes, hhist.trans hist, hbusy, hhalf, hfault, hvalid, hpc,
    hparams'.trans hparams, hprog'.trans hprog, hrest, fun hi hk r w => ?_⟩
  rw [hhist, hist, List.drop_left]
  have hpattern : portPattern i = [(false, .cfg), (true, .cfg)] := by
    simp only [List.mem_cons, List.not_mem_nil, or_false] at hi
    rcases hi with rfl | rfl | rfl | rfl | rfl | rfl | rfl <;> rfl
  exact wr_notMem_take (hpattern ▸ hp) hk r w

/-- Settles O11: at the end of the list a turn of an idle block waits; a final state has FAULT clear. -/
theorem finalStatesWaitAndFaultIsNeverFinal : Obligations.FinalStatesWaitAndFaultIsNeverFinal := by
  refine ⟨fun s ⟨hpc, hb, hf⟩ hm => ?_, fun s hf ⟨_, _, hclear⟩ => by simp [hf] at hclear⟩
  obtain ⟨t, h, -⟩ := step_next s
  obtain ⟨-, -, hwaits⟩ := indexAdvancesOnDoneOnly s t hm hf h
  rw [h, hwaits hpc.ge hb]

/-- Settles O48: each field of R250's table has its value in the definition of the state. -/
theorem resetStateOfTheBlock : Obligations.ResetStateOfTheBlock := ⟨rfl, rfl, rfl, rfl, rfl, rfl, rfl, rfl⟩

/-- Settles O51: at reset the block is idle with FAULT clear, no latch valid, an empty history and an empty list. -/
theorem resetStateHasTheInvariant : Obligations.ResetStateHasTheInvariant :=
  inv_of_idle rfl rfl (by decide) FaultReg.none_wf zero_le_one (fun _ _ => rfl) rfl le_rfl

end
